-- ==== Sys2Proof/Word.lean ====
section
/-! DEFINITION. Word.lean: the one unit of transfer of this hardware (spec 00_scope R12, 20_memory R57):
the byte, an unsigned 8-bit value. Nothing is signed and there is no wider unit. -/

namespace Sys2Proof

/-- A byte, 0 to 255 (R12). -/
abbrev Byte := BitVec 8

end Sys2Proof
end

