-- ==== Sys2Proof/Config.lean ====
section
/-! DEFINITION. Config.lean: what is fixed for one machine and what the spec leaves open.
The constants of spec 00_scope R8, the parameter record of R9 and R10, the events of the channel
(10_state R23), and the free values: opaque constants no proof can see into. -/

namespace Sys2Proof

/-! ### Constants the source fixes (R8) -/

/-- `ASPACE`: the number of addressable bytes of the device, offsets 0 to 65535. -/
abbrev addressSpace : Nat := 65536

/-- `ROW`: a page write must not cross a multiple of it. -/
abbrev rowSize : Nat := 256

/-- `PAGE_MAX`: the largest number of data bytes in one page-write transaction. -/
abbrev pageMax : Nat := 128

/-! ### Parameters (R9, R10) -/

/-- Values for every parameter of R9 and R10 that a rule depends on.
`SIG_LEN` is the length of `sig`; `CTRL_W` and `CTRL_R` are derived (Machine/Operands.lean). -/
structure Parameters where
  /-- `OPC_START`, the start-condition opcode of two-wire mode. -/
  opcStart : Byte
  /-- `OPC_STOP`, stop-condition. -/
  opcStop : Byte
  /-- `OPC_READ`, read-byte. -/
  opcRead : Byte
  /-- `OPC_ACK`, send-ACK. -/
  opcAck : Byte
  /-- `OPC_NACK`, send-NACK. -/
  opcNack : Byte
  /-- `OPC_WRITE1`, write-N-bytes with N = 1. -/
  opcWrite1 : Byte
  /-- `OPC_PWR_ON`, power/pullup-enable. -/
  opcPwrOn : Byte
  /-- `OPC_PWR_OFF`, power/pullup-disable. -/
  opcPwrOff : Byte
  /-- `OPC_BRIDGE_RESET`, reset-to-bridge. -/
  opcBridgeReset : Byte
  /-- `OPC_SEL_SPI`, select-SPI. -/
  opcSelSpi : Byte
  /-- `OPC_SEL_TWOWIRE`, select-two-wire-bus. -/
  opcSelTwoWire : Byte
  /-- `OPC_SEL_UART`, select-UART. -/
  opcSelUart : Byte
  /-- `OPC_SEL_ONEWIRE`, select-one-wire. -/
  opcSelOneWire : Byte
  /-- `OPC_SEL_RAWWIRE`, select-raw-wire. -/
  opcSelRawWire : Byte
  /-- `OPC_DEVICE_RESET`, device-reset. -/
  opcDeviceReset : Byte
  /-- `OPC_SELFTEST`, self-test. -/
  opcSelfTest : Byte
  /-- `DEV_ADDR7`, the fixed 7-bit device-family address. -/
  devAddr7 : BitVec 7
  /-- `RW_READ`, the value of the control byte's low bit that means read. -/
  rwRead : BitVec 1
  /-- `SIG`, the fixed-length signature of bridge mode. -/
  sig : List Byte
  /-- `N_RETRY`, the retry budget of mode entry. -/
  nRetry : Nat
  /-- `READ_LEAD`, bytes ahead of the first data pair of a read (R197). -/
  readLead : Nat
  deriving DecidableEq, Repr

/-- The eight opcodes named "within two-wire-bus mode" (R82). -/
def Parameters.twoWireOpcodes (c : Parameters) : List Byte :=
  [c.opcStart, c.opcWrite1, c.opcRead, c.opcAck, c.opcNack, c.opcStop, c.opcPwrOn, c.opcPwrOff]

/-- The eight bridge-level opcodes (R82). -/
def Parameters.bridgeOpcodes (c : Parameters) : List Byte :=
  [c.opcBridgeReset, c.opcSelSpi, c.opcSelTwoWire, c.opcSelUart, c.opcSelOneWire,
    c.opcSelRawWire, c.opcDeviceReset, c.opcSelfTest]

/-- The constraints of R9 and R10 on an instance of the record: opcodes pairwise distinct within each table,
and at least one attempt. (`CTRL_W != CTRL_R` follows from how the two are derived, R90.) -/
abbrev Parameters.Valid (c : Parameters) : Prop :=
  c.twoWireOpcodes.Nodup ∧ c.bridgeOpcodes.Nodup ∧ 1 ≤ c.nRetry

/-- The configuration record of a machine: "Constraints a model must impose on any instance of the record"
(R9) are imposed here, so no machine, encoder or decoder has clashing opcodes. -/
structure Config extends Parameters where
  valid : toParameters.Valid
  deriving DecidableEq, Repr

/-! ### Channel events (10_state R23) -/

/-- An element of the event history `S.EV`. -/
inductive Event where
  /-- `TxEv(b)`: byte `b` was written to the channel and flushed. -/
  | tx (b : Byte)
  /-- `DrainEv(bs)`: `bs` was read from the channel and discarded. -/
  | drain (bs : List Byte)
  /-- `CollectEv(bs, ok)`: `bs` was read from the channel; `ok` iff as many bytes as asked came. -/
  | collect (bs : List Byte) (ok : Bool)
  /-- `SettleEv`: the sequencer waited `T_SETTLE` with no channel activity. -/
  | settle
  deriving DecidableEq, Repr

/-! ### Free values: opaque, so that nothing in Lean can evaluate one -/

/-- The unconstrained oracle (R62): what arrives on the channel while a read lasts, given the histories of
the earlier sessions on this channel, oldest first (R262), and the event history of this one. A history
grows at every read, so every read asks afresh. Log entry 6. -/
opaque Config.oracle : List (List Event) → List Event → List Byte

/-- What the channel holds when a session is created (R35, U2 "any value"). Log entry 5. -/
opaque Config.resetRxq : List Byte

/-- What a byte of a row reads as after a transaction in that row was aborted (20_memory R58, U1 "any value"),
given how many aborts came before, the device's memory at the abort, and the byte's address. Log entry 20. -/
opaque Config.abortedByte : Nat → List (Nat × Byte) → Nat → Byte

/-- Where `DEVCUR` stands after an abort (U1 "any value"), given how many came before and where it stood. Log
entry 20. -/
opaque Config.abortedCursor : Nat → Nat → Nat

/-- The address byte the device holds after an abort (U1). Log entry 20. -/
opaque Config.abortedHigh : Nat → Nat → Byte

/-- Which of its internal states the device is left in by an abort (U1 "undefined internal state"), as an
index. Log entry 20. -/
opaque Config.abortedPosition : Nat → Nat → Nat

/-- Whether the device answers the next START after an abort (70_reset R274: not claimed), given how many
aborts there were and where `DEVCUR` stands. Log entry 20. -/
opaque Config.abortedAnswers : Nat → Nat → Bool

/-- `T_SETTLE`, the settle delay (R10: OPEN). No rule depends on it and no definition reads it. Log entry 12. -/
opaque Config.tSettle : Nat

/-- `T_PACE`, the optional pacing around primitives (R10, R138: OPEN). No definition reads it. Log entry 12. -/
opaque Config.tPace : Nat

/-- `T_RXTIMEOUT`, the bound of every read (R10, R241: OPEN). No definition reads it. Log entry 12. -/
opaque Config.tRxTimeout : Nat

end Sys2Proof
end

