-- ==== Sys2Proof/Syntax.lean ====
section
/-! DEFINITION. Syntax.lean: the operations that have an opcode, one constructor per row of
spec/opcode_table.json. A primitive is a value of a closed enumeration (30_encoding R86, R94); the
only operand is the WRITE payload (R87). -/

namespace Sys2Proof

/-- The opcode-bearing operations: five primitives (R81), four session operations (R82), and six
bridge-level opcodes that are named and emitted by no operation (R117). -/
inductive Instr where
  /-- START: issue a start condition (R132). -/
  | start
  /-- WRITE(b): send one byte to the device (R133). -/
  | write (b : Byte)
  /-- READ_ACK: read one byte and acknowledge it (R134). -/
  | readAck
  /-- READ_NACK: read one byte and do not acknowledge it (R135). -/
  | readNack
  /-- STOP: issue a stop condition (R136). -/
  | stop
  /-- configurePower(true) (R114). -/
  | configurePowerOn
  /-- configurePower(false) (R114). -/
  | configurePowerOff
  /-- enterBridgeMode(), whose opcode is reset-to-bridge (R111). -/
  | enterBridgeMode
  /-- selectBusMode(), whose opcode is select-two-wire-bus (R113). -/
  | selectBusMode
  /-- select-SPI (R117). -/
  | selectSpi
  /-- select-UART (R117). -/
  | selectUart
  /-- select-one-wire (R117). -/
  | selectOneWire
  /-- select-raw-wire (R117). -/
  | selectRawWire
  /-- device-reset (R117). -/
  | deviceReset
  /-- self-test (R117). -/
  | selfTest
  deriving DecidableEq, Repr

end Sys2Proof
end

