-- ==== Sys2Proof/Machine/Types.lean ====
section
/-! DEFINITION. Machine/Types.lean: the names and small data the machine's state is made of: session and
monitor states, the primitive type of R94, the operations that have no opcode, the six typed errors
(60_exceptions R227) and what an operation returns. -/

namespace Sys2Proof.Machine

/-- `S.SESSION`, the one control register (10_state R22). -/
inductive Session where
  | idle
  | bridgeEntered
  | busModeSelected
  | ready
  | closed
  deriving DecidableEq, Repr

/-- `S.PHASE`, where the primitive sequence stands in a transaction (ghost, 10_state R20, R27). -/
inductive Phase where
  | busIdle
  | started
  | writeSeg
  | readSeg
  | readDone
  | unknown
  deriving DecidableEq, Repr

/-- The two opcode tables (30_encoding R83). -/
inductive OpTable where
  /-- The eight bridge-level names. -/
  | bridge
  /-- The eight names within two-wire mode. -/
  | twoWire
  deriving DecidableEq, Repr

/-- Which table applies in a session state (30_encoding R83): the bridge-level one while the session is
`Idle` or `BridgeEntered`, the two-wire one from `BusModeSelected` on. In `Closed`, where nothing has a
step, it is the two-wire one: DESIGN CHOICE, log entry 8. -/
def Session.table : Session → OpTable
  | .idle => .bridge
  | .bridgeEntered => .bridge
  | .busModeSelected => .twoWire
  | .ready => .twoWire
  | .closed => .twoWire

/-- A command of the block: a value of the five-constructor type of 30_encoding R94. -/
inductive Prim where
  | start
  | write (b : Byte)
  | readAck
  | readNack
  | stop
  deriving DecidableEq, Repr

/-- The primitive as an instruction of the opcode table. -/
def Prim.toInstr : Prim → Instr
  | .start => .start
  | .write b => .write b
  | .readAck => .readAck
  | .readNack => .readNack
  | .stop => .stop

/-- What a template expands to (30_encoding R93): primitives and the channel actions a template may
hold. No template holds a `Collect` (42_transactions R157). -/
inductive Action where
  | prim (p : Prim)
  | drain
  | settle
  deriving DecidableEq, Repr

/-- The operations that have no opcode of their own: channel actions (R150 to R152), templates
(R154 to R156), drivers (R170, R190), the verifier (R210), and the collaborator abandoning a session
before `Ready` (R115). -/
inductive Call where
  /-- `Drain()`. -/
  | drain
  /-- `Collect(n)`. -/
  | collect (n : Nat)
  /-- `Settle()`. -/
  | settle
  /-- `PTRSET(hi, lo)`. -/
  | ptrset (hi lo : Byte)
  /-- `PAGEWR(hi, lo, d)`. -/
  | pagewr (hi lo : Byte) (d : List Byte)
  /-- `READSEQ(n)`. -/
  | readseq (n : Nat)
  /-- `writePages(data, (hi, lo))`. -/
  | writePages (data : List Byte) (hi lo : Byte)
  /-- `readBytes((hi, lo), n)`. -/
  | readBytes (hi lo : Byte) (n : Nat)
  /-- `compare(expected, actual)`. -/
  | compare (expected actual : List Byte)
  /-- The session is given up before `Ready` (R115, R240). -/
  | abandon
  deriving DecidableEq, Repr

/-- What the caller hands over, one at a time and in its own order (R21), and what the environment
does between two operations (R24). -/
inductive Command where
  /-- An opcode-bearing operation, as the value R94 makes it. -/
  | operation (i : Instr)
  /-- An opcode-bearing operation given by its bytes, to be read in the table that the session state
  selects (R83). -/
  | encoded (bytes : List Byte)
  /-- An operation with no opcode. -/
  | call (c : Call)
  /-- The environment appends bytes to the receive queue (R24). -/
  | arrive (bytes : List Byte)
  deriving DecidableEq, Repr

/-- Why bytes are not the encoding of an operation (30_encoding R85, R86: `dec` returns invalid). -/
inductive DecodeError where
  /-- There is no byte to read. -/
  | noByte
  /-- The byte in opcode position is in no row of the table. -/
  | noSuchOpcode (b : Byte)
  /-- `OPC_WRITE1` with no payload byte after it. -/
  | payloadMissing
  /-- `OPC_READ` with no byte after it, or one that is neither `OPC_ACK` nor `OPC_NACK`. -/
  | notAHandshake
  /-- A whole operation is followed by further bytes where one operation was expected. -/
  | bytesLeftOver
  deriving DecidableEq, Repr

/-- The six typed errors with their payloads (60_exceptions R227). -/
inductive Err where
  /-- The signature was not read in any of `N_RETRY` attempts (R221). -/
  | modeEntryError
  /-- `lo + n > 256` for a page at `(hi, lo)` of `n` bytes (R222). The chunk index is there when
  `writePages` surfaces the error, absent when `PAGEWR` is used directly. -/
  | pageBoundaryError (chunk : Option Nat) (hi lo : Byte) (length : Nat)
  /-- Data remains and the cursor's `hi` is above 255 (R223). -/
  | addressSpaceExhausted (chunk offset remaining : Nat)
  /-- Fewer than the expected number of bytes arrived (R224). -/
  | ioTimeout (expected got : Nat)
  /-- The input is longer than the device (R225). -/
  | sourceTooLarge (length : Nat)
  /-- The verifier was given two lengths (R226). -/
  | lengthMismatch (expected actual : Nat)
  deriving DecidableEq, Repr

/-- The result of `compare` (45_verifier R211). -/
inductive Verdict where
  /-- `Match`. -/
  | agree
  /-- `Mismatch(index, expected, actual)`. -/
  | mismatch (index : Nat) (expected actual : Byte)
  /-- `LengthMismatch`, the error returned as the result. -/
  | failed (e : Err)
  deriving DecidableEq, Repr

/-- What an operation hands back to its caller (60_exceptions R220). A primitive, a template without
checks, a drain, a settle and `configurePower` hand back nothing. -/
inductive Reply where
  /-- `enterBridgeMode` returned ok (R111). -/
  | entered
  /-- `Collect` returned these bytes (R151). -/
  | collected (bs : List Byte)
  /-- `PAGEWR` returned committed or rejected, with what it reported (R155). -/
  | page (committed : Bool) (errors : List Err)
  /-- `writePages` returned `(bytesWritten, errors)` (R170). -/
  | written (bytesWritten : Nat) (errors : List Err)
  /-- `readBytes` returned its buffer (R190). -/
  | buffer (bs : List Byte)
  /-- `compare` returned (R210). -/
  | verdict (v : Verdict)
  /-- The operation ended with an error and no result (R220 `raise`). -/
  | raised (e : Err)
  deriving DecidableEq, Repr

end Sys2Proof.Machine
end

