-- ==== Sys2Proof/WellFormed.lean ====
section
/-! DEFINITION. WellFormed.lean: which operands are well formed.
An opcode-bearing operation always is: "an ill-formed command simply cannot be written down"
(30_encoding R86). The checks are on the operands that 60_exceptions R230 calls not well formed; the
check on parameters (00_scope R9, R10) is part of the record itself, in Config.lean. -/

namespace Sys2Proof

/-- Every operation of the opcode table is well formed: the type is closed and its one operand is a
byte (R86, R87, R94). -/
def Instr.WellFormed : Instr → Bool
  | .start => true
  | .write _ => true
  | .readAck => true
  | .readNack => true
  | .stop => true
  | .configurePowerOn => true
  | .configurePowerOff => true
  | .enterBridgeMode => true
  | .selectBusMode => true
  | .selectSpi => true
  | .selectUart => true
  | .selectOneWire => true
  | .selectRawWire => true
  | .deviceReset => true
  | .selfTest => true

/-- A length a page may have (10_state R31). -/
abbrev pageLength (n : Nat) : Bool := decide (1 ≤ n ∧ n ≤ pageMax)

/-- The operands of an operation with no opcode are well formed (60_exceptions R230): `PAGEWR` with 1
to 128 bytes, `READSEQ` and `Collect` with at least 1. -/
def Machine.Call.WellFormed : Machine.Call → Bool
  | .collect n => decide (1 ≤ n)
  | .pagewr _ _ d => pageLength d.length
  | .readseq n => decide (1 ≤ n)
  | .drain => true
  | .settle => true
  | .ptrset _ _ => true
  | .writePages _ _ _ => true
  | .readBytes _ _ _ => true
  | .compare _ _ => true
  | .abandon => true

end Sys2Proof
end

