-- ==== Sys2Proof/Decode.lean ====
section
/-! DEFINITION. Decode.lean: the byte patterns of the operations (30_encoding), read and written.
The values of the opcode table, the decoder (R83 to R86), the encoder (R80 to R82), and the reading of
a word as spec/opcode_table.json numbers its bits (R95). -/

namespace Sys2Proof

open Machine (OpTable DecodeError Session)

/-! ### The parameter values of the opcode table -/

/-- The default column of R9 and R10. The opcode and control-byte values, the signature and its length
are `[from general knowledge, not in source]` (G1 to G5): PRESUMED, log entries 2 to 4. -/
def Config.standard : Config where
  opcStart := 0x02
  opcStop := 0x03
  opcRead := 0x04
  opcAck := 0x06
  opcNack := 0x07
  opcWrite1 := 0x10
  opcPwrOn := 0x4C
  opcPwrOff := 0x40
  opcBridgeReset := 0x00
  opcSelSpi := 0x01
  opcSelTwoWire := 0x02
  opcSelUart := 0x03
  opcSelOneWire := 0x04
  opcSelRawWire := 0x05
  opcDeviceReset := 0x0F
  opcSelfTest := 0x10
  devAddr7 := 0b1010000
  rwRead := 1
  sig := [0x42, 0x42, 0x49, 0x4F, 0x31]
  nRetry := 20
  readLead := 0
  valid := by decide

/-! ### Decoder -/

/-- After `OPC_WRITE1`: exactly one payload byte, never interpreted (R84, R85, R87). -/
def decodePayload : List Byte → Except DecodeError (Instr × List Byte)
  | b :: rest => .ok (.write b, rest)
  | [] => .error .payloadMissing

/-- After `OPC_READ`: exactly one of `OPC_ACK`, `OPC_NACK` (R84, R86). -/
def decodeHandshake (c : Config) : List Byte → Except DecodeError (Instr × List Byte)
  | b :: rest =>
    if b = c.opcAck then .ok (.readAck, rest)
    else if b = c.opcNack then .ok (.readNack, rest)
    else .error .notAHandshake
  | [] => .error .notAHandshake

/-- One step of `dec` in two-wire mode: the operation at the head of the bytes, and what follows it
(R85). -/
def decodeTwoWire (c : Config) : List Byte → Except DecodeError (Instr × List Byte)
  | [] => .error .noByte
  | b :: rest =>
    if b = c.opcStart then .ok (.start, rest)
    else if b = c.opcStop then .ok (.stop, rest)
    else if b = c.opcWrite1 then decodePayload rest
    else if b = c.opcRead then decodeHandshake c rest
    else if b = c.opcPwrOn then .ok (.configurePowerOn, rest)
    else if b = c.opcPwrOff then .ok (.configurePowerOff, rest)
    else .error (.noSuchOpcode b)

/-- The bridge-level table: every opcode stands alone (R82, R83). -/
def decodeBridge (c : Config) : List Byte → Except DecodeError (Instr × List Byte)
  | [] => .error .noByte
  | b :: rest =>
    if b = c.opcBridgeReset then .ok (.enterBridgeMode, rest)
    else if b = c.opcSelTwoWire then .ok (.selectBusMode, rest)
    else if b = c.opcSelSpi then .ok (.selectSpi, rest)
    else if b = c.opcSelUart then .ok (.selectUart, rest)
    else if b = c.opcSelOneWire then .ok (.selectOneWire, rest)
    else if b = c.opcSelRawWire then .ok (.selectRawWire, rest)
    else if b = c.opcDeviceReset then .ok (.deviceReset, rest)
    else if b = c.opcSelfTest then .ok (.selfTest, rest)
    else .error (.noSuchOpcode b)

/-- The operation at the head of the bytes, in the table that applies (R83). -/
def decodeHead (c : Config) : OpTable → List Byte → Except DecodeError (Instr × List Byte)
  | .twoWire, bs => decodeTwoWire c bs
  | .bridge, bs => decodeBridge c bs

/-- The bytes as exactly one operation. -/
def decodeOne (c : Config) (t : OpTable) (bs : List Byte) : Except DecodeError Instr :=
  match decodeHead c t bs with
  | .ok (i, []) => .ok i
  | .ok (_, _ :: _) => .error .bytesLeftOver
  | .error e => .error e

/-- `dec` with a bound on the number of operations. -/
def decodeUpTo (c : Config) (t : OpTable) : Nat → List Byte → Except DecodeError (List Instr)
  | _, [] => .ok []
  | 0, _ :: _ => .error .bytesLeftOver
  | k + 1, b :: bs =>
    match decodeHead c t (b :: bs) with
    | .ok (i, rest) =>
      match decodeUpTo c t k rest with
      | .ok is => .ok (i :: is)
      | .error e => .error e
    | .error e => .error e

/-- `dec` of R85: a byte stream read from the left as operations. Every operation takes at least one
byte, so the length of the stream bounds their number. -/
def decodeStream (c : Config) (t : OpTable) (bs : List Byte) : Except DecodeError (List Instr) :=
  decodeUpTo c t bs.length bs

/-! ### Encoder -/

/-- The table an operation's opcode belongs to (R82, R83). -/
def Instr.table : Instr → OpTable
  | .start => .twoWire
  | .write _ => .twoWire
  | .readAck => .twoWire
  | .readNack => .twoWire
  | .stop => .twoWire
  | .configurePowerOn => .twoWire
  | .configurePowerOff => .twoWire
  | .enterBridgeMode => .bridge
  | .selectBusMode => .bridge
  | .selectSpi => .bridge
  | .selectUart => .bridge
  | .selectOneWire => .bridge
  | .selectRawWire => .bridge
  | .deviceReset => .bridge
  | .selfTest => .bridge

/-- `enc`: the bytes of an operation, first transmitted first (R81, R82). -/
def encode (c : Config) : Instr → List Byte
  | .start => [c.opcStart]
  | .write b => [c.opcWrite1, b]
  | .readAck => [c.opcRead, c.opcAck]
  | .readNack => [c.opcRead, c.opcNack]
  | .stop => [c.opcStop]
  | .configurePowerOn => [c.opcPwrOn]
  | .configurePowerOff => [c.opcPwrOff]
  | .enterBridgeMode => [c.opcBridgeReset]
  | .selectBusMode => [c.opcSelTwoWire]
  | .selectSpi => [c.opcSelSpi]
  | .selectUart => [c.opcSelUart]
  | .selectOneWire => [c.opcSelOneWire]
  | .selectRawWire => [c.opcSelRawWire]
  | .deviceReset => [c.opcDeviceReset]
  | .selfTest => [c.opcSelfTest]

/-- `enc` of a list is the concatenation in order (R81). -/
def encodeAll (c : Config) (is : List Instr) : List Byte := is.flatMap (encode c)

/-! ### Words as spec/opcode_table.json numbers them -/

/-- Byte `k` of a word of `n` bytes, byte 0 the most significant (R95). -/
def wordByte (n w k : Nat) : Byte := BitVec.ofNat 8 (w / 2 ^ (8 * (n - 1 - k)))

/-- The bytes of a word of `nbits` bits, first transmitted first. The spec has strings of whole bytes only
(R95); that an `nbits` that is no multiple of 8 is rounded up to whole bytes, and that bits of `w` above
those bytes are dropped, is a DESIGN CHOICE. Log entry 8. -/
def wordBytes (nbits w : Nat) : List Byte :=
  let n := (nbits + 7) / 8
  (List.range n).map (wordByte n w)

/-- The bytes as one operation in a session state, which selects the table (R83, R95 `mode`). -/
def decodeInSession (c : Config) (x : Session) (bs : List Byte) : Option Instr :=
  match decodeOne c x.table bs with
  | .ok i => some i
  | .error _ => none

/-- The bytes as one operation when no session state is given, so that no rule selects the table: as from
`Ready` where they are an operation there, else as from `BridgeEntered`. Log entry 8. -/
def decodeInAnySession (c : Config) (bs : List Byte) : Option Instr :=
  match decodeInSession c .ready bs with
  | some i => some i
  | none => decodeInSession c .bridgeEntered bs

/-- The row of the opcode table that a word is in a session state, under the table's own parameter
values (R95: two rows may have the same `match` when their `mode` differs). -/
def decodeWordIn (x : Session) (nbits w : Nat) : Option Instr :=
  decodeInSession Config.standard x (wordBytes nbits w)

/-- The instruction the decoder reads from a word of the opcode table when the host names no session
state, under the table's own parameter values. Log entry 8. -/
def decodeTableWord (nbits w : Nat) : Option Instr :=
  decodeInAnySession Config.standard (wordBytes nbits w)

/-- The session state in which a row's `mode` (R95) has its operation emitted; the six rows that no
operation emits stand at the bridge level, which is understood once the signature was answered, that
is in `BridgeEntered` (R83). -/
def Instr.home : Instr → Session
  | .start => .ready
  | .write _ => .ready
  | .readAck => .ready
  | .readNack => .ready
  | .stop => .ready
  | .configurePowerOn => .busModeSelected
  | .configurePowerOff => .ready
  | .enterBridgeMode => .idle
  | .selectBusMode => .bridgeEntered
  | .selectSpi => .bridgeEntered
  | .selectUart => .bridgeEntered
  | .selectOneWire => .bridgeEntered
  | .selectRawWire => .bridgeEntered
  | .deviceReset => .bridgeEntered
  | .selfTest => .bridgeEntered

/-- Where a word is handed over: in the present session state `x` if that state's own table reads it as an
operation of this state, else in the state of the operation it is when no state is named. Log entry 8. -/
def placeFor (c : Config) (x : Session) (bs : List Byte) : Session :=
  if (decodeInSession c x bs).map Instr.home = some x then x
  else
    match decodeInAnySession c bs with
    | some i => i.home
    | none => x

end Sys2Proof
end

