-- ==== Sys2Proof/Machine/State.lean ====
section
/-! DEFINITION. Machine/State.lean: the machine state as plain data (spec 10_state R20), the environment
that answers the channel's reads (20_memory R62), the reasons a step can stop, and reset (R35). -/

namespace Sys2Proof.Machine

/-! ### The reference environment of 95_test_vectors section 4 (a test fixture, log entry 14) -/

/-- Which table the reference bridge is decoding. -/
inductive BridgeMode where
  | term
  | bridge
  | twoWire
  deriving DecidableEq, Repr

/-- Where the reference device stands in a transaction. -/
inductive DeviceState where
  | idle
  | control
  | addressHigh
  | addressLow
  | writing
  | reading
  | readDone
  deriving DecidableEq, Repr

/-- The reference bridge and device, with the reply bytes nothing has read yet. `mem` lists, by strictly
rising address, the bytes that differ from the initial `FF`. `inFlight`, `rows`, `aborts` and `lost`
are the model's own: what an abort makes unknown (20_memory R58, U1; log entry 20). -/
structure Reference where
  /-- `K_ENTER`: how many reset-to-bridge opcodes before the bridge answers. -/
  kEnter : Nat
  /-- `BANNER`: the answer to the bus-mode select. -/
  banner : List Byte
  mode : BridgeMode
  resets : Nat
  expectPayload : Bool
  mem : List Host.Cell
  /-- `cur`: the device's address cursor, 0 to 65535. -/
  cur : Nat
  /-- `ah`: the high address byte received. -/
  ah : Byte
  st : DeviceState
  /-- A START was given and no STOP since: a transaction is in flight. -/
  inFlight : Bool
  /-- The rows, by their high address byte, that were addressed or written since the last STOP. -/
  rows : List Byte
  /-- How many transactions were aborted in flight. -/
  aborts : Nat
  /-- A transaction was aborted and no START given since: whether the next one is answered is not known. -/
  lost : Bool
  /-- Replies sent and not yet taken by a read. -/
  pending : List Byte
  deriving DecidableEq, Repr

/-- Which environment answers the channel's reads (R62). The model's own field, log entry 6. -/
inductive Env where
  /-- Any answers at all: the free value `Config.oracle` of the event histories of the earlier sessions on
  this channel, oldest first, and of this one. What the device and the adapter hold is what those
  histories left in them (70_reset R262). -/
  | free (earlier : List (List Event))
  /-- The answers written out: entry `k` is what arrives while the read that follows `k` earlier reads
  lasts; past the end nothing arrives. -/
  | scripted (answers : List (List Byte))
  /-- The deterministic reference oracle (95_test_vectors section 4). -/
  | reference (r : Reference)
  deriving DecidableEq, Repr

end Sys2Proof.Machine

namespace Sys2Proof.Machine

/-- The machine state. The first six fields are the record `S` of R20; the others are the model's own:
the configuration record every step takes (R20, log entry 1), the environment, what the caller has
still to hand over, oldest first (R21), and what was returned to it, in order (R220). -/
structure State where
  /-- `S.SESSION` (R22). -/
  session : Session
  /-- `S.EV`, the event history; it only grows (R23). -/
  ev : List Event
  /-- `S.RXQ`, bytes delivered that nothing has consumed, oldest first (R24). -/
  rxq : List Byte
  /-- `S.DESYNC`, sticky (R25). -/
  desync : Bool
  /-- `S.PHASE`, ghost (R26, R27). -/
  phase : Phase
  /-- `S.VIOL`, ghost and sticky (R26, R27). -/
  viol : Bool
  /-- The configuration record, its constraints imposed (00_scope R9, R10). -/
  cfg : Config
  /-- The environment (20_memory R62). -/
  env : Env
  /-- The operations still to be handed over. -/
  commands : List Command
  /-- The results and errors returned. -/
  replies : List Reply
  deriving DecidableEq, Repr

/-- Why the machine stops with a fault. -/
inductive Fault where
  /-- Raised by `step` when a command given by its bytes is the encoding of no operation in its table:
  `dec` returns invalid, "a `fault` of the checker, not of the hardware" (30_encoding R85, R86, U9).
  Safe: no state follows. -/
  | invalidEncoding (why : DecodeError)
  deriving DecidableEq, Repr

/-- Why an operation has no step (60_exceptions R230). A refusal is not an error: nothing is written,
nothing changes, nothing is returned. All are safe: the run ends and nothing can be claimed past it. -/
inductive Refusal where
  /-- Raised by `exec` for an instruction that has no meaning yet. Safe. -/
  | notModelled (mnemonic : String)
  /-- Raised by every operation called in a value of `S.SESSION` where it has no step (R110, R230). Safe. -/
  | wrongSession (session : Session)
  /-- Raised by every operation of layers L0 to L2 while `S.DESYNC` is true (R25, R230, U6). Safe. -/
  | desynchronized
  /-- Raised by `PAGEWR` with a length outside 1 to 128, `READSEQ(0)` and `Collect(0)` (R230, U18). Safe. -/
  | illFormedOperands
  /-- Raised by the six bridge-level opcodes that no operation emits (40_session R117, U8). Safe. -/
  | neverEmitted
  /-- Raised by `step` when the caller has handed over nothing more (10_state R21: the program has
  ended). Safe. -/
  | noCommand
  deriving DecidableEq, Repr

/-- What every operation answers. -/
abbrev Result := Host.Outcome State Fault Refusal

/-- Reset is the creation of a session at channel open (R35, R260). `S.RXQ` is unspecified: a free value
(U2, log entry 5). The parameters are the defaults of R9 (log entries 1 to 4). -/
def State.reset : State where
  session := .idle
  ev := []
  rxq := Config.resetRxq
  desync := false
  phase := .busIdle
  viol := false
  cfg := Config.standard
  env := .free []
  commands := []
  replies := []

end Sys2Proof.Machine
end

