-- ==== Sys2Proof/Machine/Operands.lean ====
section
/-! DEFINITION. Machine/Operands.lean: how operands are assembled: the control byte (30_encoding R90), the
address bytes (R91, 20_memory R52, R53), what a page is (10_state R31), and the length of the next chunk
(43_pagewriter R172). All address arithmetic is on natural numbers and nothing wraps. -/

namespace Sys2Proof

/-- `CTRL_R`: the device-family address in bits 7:1, `RW_READ` in bit 0 (R90). -/
def Config.ctrlR (c : Config) : Byte := c.devAddr7 ++ c.rwRead

/-- `CTRL_W`: the same address, the complement of `RW_READ` in bit 0 (R90). -/
def Config.ctrlW (c : Config) : Byte := c.devAddr7 ++ ~~~c.rwRead

namespace Machine

/-- `lin(hi, lo) = hi * 256 + lo` (R14, R52). -/
def lin (hi lo : Byte) : Nat := hi.toNat * 256 + lo.toNat

/-- `hi(a) = a[15:8]` (R52). -/
def highByte (a : Nat) : Byte := BitVec.ofNat 8 (a / 256)

/-- `lo(a) = a[7:0]` (R52). -/
def lowByte (a : Nat) : Byte := BitVec.ofNat 8 a

/-- The row rule: a page of `n` bytes starting at low byte `lo` stays in its row (20_memory R54). -/
def fitsRow (lo n : Nat) : Bool := decide (lo + n ≤ rowSize)

/-- A page has 1 to 128 bytes (10_state R31). -/
def pageSized (n : Nat) : Bool := decide (1 ≤ n) && decide (n ≤ pageMax)

/-- `(hi, lo, d)` is a Page (10_state R31). -/
def isPage (lo : Byte) (d : List Byte) : Bool := pageSized d.length && fitsRow lo.toNat d.length

/-- `n = min(128, L - off, 256 - lo)`: at most a page, at most what is left, at most what remains of
the row (43_pagewriter R172). -/
def chunkLength (left lo : Nat) : Nat := min pageMax (min left (rowSize - lo))

end Machine

end Sys2Proof
end

