-- ==== Sys2Proof/Machine/Flags.lean ====
section
/-! DEFINITION. Machine/Flags.lean: the ghost protocol monitor (10_state R26 to R28) and the one real status
flag (R25). There are no condition codes: no primitive writes a flag as a side effect. -/

namespace Sys2Proof.Machine

/-- The table of `Mon` (10_state R27): the next phase, or `none` where the cell is `V`. -/
def monitorNext (c : Config) : Phase → Prim → Option Phase
  | .busIdle, .start => some .started
  | .busIdle, .write _ => none
  | .busIdle, .readAck => none
  | .busIdle, .readNack => none
  | .busIdle, .stop => none
  | .started, .start => none
  | .started, .write b =>
    if b = c.ctrlW then some .writeSeg
    else if b = c.ctrlR then some .readSeg
    else none
  | .started, .readAck => none
  | .started, .readNack => none
  | .started, .stop => none
  | .writeSeg, .start => some .started
  | .writeSeg, .write _ => some .writeSeg
  | .writeSeg, .readAck => none
  | .writeSeg, .readNack => none
  | .writeSeg, .stop => some .busIdle
  | .readSeg, .start => none
  | .readSeg, .write _ => none
  | .readSeg, .readAck => some .readSeg
  | .readSeg, .readNack => some .readDone
  | .readSeg, .stop => none
  | .readDone, .start => none
  | .readDone, .write _ => none
  | .readDone, .readAck => none
  | .readDone, .readNack => none
  | .readDone, .stop => some .busIdle
  | .unknown, .start => some .unknown
  | .unknown, .write _ => some .unknown
  | .unknown, .readAck => some .unknown
  | .unknown, .readNack => some .unknown
  | .unknown, .stop => some .unknown

/-- `Mon(p)`: advance the monitor; a `V` cell sets `S.VIOL` and goes to `Unknown` (R27). Nothing the block
emits depends on it (R26). -/
def State.monitor (p : Prim) (s : State) : State :=
  match monitorNext s.cfg s.phase p with
  | some ph => { s with phase := ph }
  | none => { s with phase := .unknown, viol := true }

/-- A timeout during an expected handshake: `S.DESYNC` is set and the monitor no longer knows where the
transaction stands (R25). Nothing clears it. -/
def State.desynchronize (s : State) : State :=
  { s with desync := true, phase := .unknown }

/-- `wellformed(S)` (R28). -/
def State.wellformed (s : State) : Bool := !s.viol

/-- `open(S)`: a transaction is open (R28). -/
def State.isOpen (s : State) : Bool :=
  match s.phase with
  | .started => true
  | .writeSeg => true
  | .readSeg => true
  | .readDone => true
  | .busIdle => false
  | .unknown => false

/-- `complete(S)`: "the transaction is considered complete" (R28). -/
def State.complete (s : State) : Bool := !s.viol && !s.desync && decide (s.phase = .busIdle)

end Sys2Proof.Machine
end

