-- ==== Sys2Proof/Machine/Reference.lean ====
section
/-! DEFINITION. Machine/Reference.lean: the environment that answers the channel's reads (20_memory R62), with
the deterministic reference oracle of 95_test_vectors section 4 and its device memory. The reference
oracle is a test fixture `[from general knowledge, not in source]` (G6 to G8): PRESUMED, log entry 14.
Nothing here is a step of the machine. -/

namespace Sys2Proof.Machine

/-! ### The device's byte space (20_memory R51) as a sorted list of the bytes that differ from `FF` -/

/-- What an unlisted address reads as: device memory starts as all `FF` (G8). -/
def Memory.erased : Byte := 0xFF

/-- The byte at address `a`. -/
def Memory.read : List Host.Cell → Nat → Byte
  | [], _ => Memory.erased
  | (k, v) :: m, a => if a = k then v else Memory.read m a

/-- A cell put before a memory whose addresses all lie above it, left out if it is what an unlisted
address reads as. -/
def Memory.put (a : Nat) (b : Byte) (m : List Host.Cell) : List Host.Cell :=
  if b = Memory.erased then m else (a, b) :: m

/-- Store one byte, keeping the canonical form. -/
def Memory.write : List Host.Cell → Nat → Byte → List Host.Cell
  | [], a, b => Memory.put a b []
  | (k, v) :: m, a, b =>
    if a < k then Memory.put a b ((k, v) :: m)
    else if a = k then Memory.put a b m
    else (k, v) :: Memory.write m a b

/-- The canonical form: addresses strictly rising and inside the device (R51), no entry equal to what an
unlisted address reads as. -/
abbrev Memory.wf (m : List Host.Cell) : Prop :=
  m.Pairwise (fun x y => x.1 < y.1) ∧ ∀ x ∈ m, x.2 ≠ Memory.erased ∧ x.1 < addressSpace

/-! ### The reference device and bridge (95_test_vectors section 4) -/

/-- The cursor after a data byte is written: it "wraps within the 256-byte row". -/
def nextInRow (a : Nat) : Nat := a / rowSize * rowSize + (a + 1) % rowSize

/-- A row is among those the transaction in flight addressed or wrote. -/
def Reference.touch (row : Byte) (r : Reference) : Reference :=
  if row ∈ r.rows then r else { r with rows := row :: r.rows }

/-- `devWrite(b)`: the device takes a written byte; true iff it acknowledges. -/
def Reference.deviceWrite (c : Config) (b : Byte) (r : Reference) : Reference × Bool :=
  match r.st with
  | .control =>
    if b = c.ctrlW then ({ r with st := .addressHigh }, true)
    else if b = c.ctrlR then ({ r with st := .reading }, true)
    else ({ r with st := .idle }, false)
  | .addressHigh => ({ r.touch b with ah := b, st := .addressLow }, true)
  | .addressLow => ({ r with cur := lin r.ah b, st := .writing }, true)
  | .writing =>
    ({ r.touch (highByte r.cur) with mem := Memory.write r.mem r.cur b, cur := nextInRow r.cur }, true)
  | .idle => (r, false)
  | .reading => (r, false)
  | .readDone => (r, false)

/-- The payload byte after write-N-bytes(1): `00` if the device acknowledged, else `01`. -/
def Reference.onPayload (c : Config) (b : Byte) (r : Reference) : Reference × List Byte :=
  match Reference.deviceWrite c b { r with expectPayload := false } with
  | (r', true) => (r', [0x00])
  | (r', false) => (r', [0x01])

/-- The read-byte opcode: the device's next byte if it is reading, else `FF`. -/
def Reference.onRead (r : Reference) : Reference × List Byte :=
  match r.st with
  | .reading => ({ r with cur := (r.cur + 1) % addressSpace }, [Memory.read r.mem r.cur])
  | .idle => (r, [0xFF])
  | .control => (r, [0xFF])
  | .addressHigh => (r, [0xFF])
  | .addressLow => (r, [0xFF])
  | .writing => (r, [0xFF])
  | .readDone => (r, [0xFF])

/-- The send-NACK opcode ends a read. -/
def Reference.onNack (r : Reference) : Reference :=
  match r.st with
  | .reading => { r with st := .readDone }
  | .idle => r
  | .control => r
  | .addressHigh => r
  | .addressLow => r
  | .writing => r
  | .readDone => r

/-! ### A transaction aborted in flight (20_memory R58, 60_exceptions R235, 70_reset R274, U1) -/

/-- Every byte of a row replaced by what `f` gives its address. -/
def Memory.fillRow (f : Nat → Byte) (row : Byte) (m : List Host.Cell) : List Host.Cell :=
  (List.range rowSize).foldl
    (fun m i => Memory.write m (row.toNat * rowSize + i) (f (row.toNat * rowSize + i))) m

/-- The bytes of several rows replaced. -/
def Memory.fillRows (f : Nat → Byte) (rows : List Byte) (m : List Host.Cell) : List Host.Cell :=
  rows.foldl (fun m row => Memory.fillRow f row m) m

/-- A state of the device by its index. -/
def DeviceState.ofIndex : Nat → DeviceState
  | 0 => .idle
  | 1 => .control
  | 2 => .addressHigh
  | 3 => .addressLow
  | 4 => .writing
  | 5 => .reading
  | _ => .readDone

/-- "aborting ... while a transaction is in flight leaves the device in an undefined internal state": the
rows that transaction addressed or wrote, `DEVCUR`, the device's internal state and whether it answers
the next START are free values, and every other row stays (R58, R274, U1). Log entry 20. -/
def Reference.abort (r : Reference) : Reference :=
  { r with
    mem := Memory.fillRows (Config.abortedByte r.aborts r.mem) r.rows r.mem
    cur := Config.abortedCursor r.aborts r.cur % addressSpace
    ah := Config.abortedHigh r.aborts r.cur
    st := DeviceState.ofIndex (Config.abortedPosition r.aborts r.cur)
    inFlight := false
    rows := []
    aborts := r.aborts + 1
    lost := true }

/-- power/pullup-disable: with a transaction in flight it aborts it (R274). -/
def Reference.onPowerOff (r : Reference) : Reference := if r.inFlight then r.abort else r

/-! ### The bridge -/

/-- start-condition: the device waits for the control byte; the first time after an abort it may not. -/
def Reference.onStart (r : Reference) : Reference :=
  { r with
    st := if r.lost && !Config.abortedAnswers r.aborts r.cur then .idle else .control
    inFlight := true
    lost := false }

/-- An opcode in two-wire mode. -/
def Reference.onTwoWire (c : Config) (b : Byte) (r : Reference) : Reference × List Byte :=
  if b = c.opcStart then (r.onStart, [0x01])
  else if b = c.opcStop then ({ r with st := .idle, inFlight := false, rows := [] }, [0x01])
  else if b = c.opcWrite1 then ({ r with expectPayload := true }, [0x01])
  else if b = c.opcRead then r.onRead
  else if b = c.opcAck then (r, [0x01])
  else if b = c.opcNack then (r.onNack, [0x01])
  else if b = c.opcPwrOn then (r, [0x01])
  else if b = c.opcPwrOff then (r.onPowerOff, [0x01])
  else (r, [])

/-- An opcode before two-wire mode. -/
def Reference.onBridge (c : Config) (b : Byte) (r : Reference) : Reference × List Byte :=
  if b = c.opcBridgeReset then
    if r.kEnter ≤ r.resets + 1 then ({ r with resets := r.resets + 1, mode := .bridge }, c.sig)
    else ({ r with resets := r.resets + 1 }, [])
  else if r.mode = .bridge ∧ b = c.opcSelTwoWire then ({ r with mode := .twoWire }, r.banner)
  else (r, [])

/-- `onTx(b)`: what the bridge does with a byte, and its reply. -/
def Reference.onTx (c : Config) (b : Byte) (r : Reference) : Reference × List Byte :=
  match r.mode with
  | .term => r.onBridge c b
  | .bridge => r.onBridge c b
  | .twoWire => if r.expectPayload then r.onPayload c b else r.onTwoWire c b

/-- The environment sees one event. A transmitted byte is answered at once; a read takes every reply
that is waiting. -/
def Reference.observe (c : Config) (r : Reference) : Event → Reference
  | .tx b => { (r.onTx c b).1 with pending := r.pending ++ (r.onTx c b).2 }
  | .drain _ => { r with pending := [] }
  | .collect _ _ => { r with pending := [] }
  | .settle => r

/-- The reference environment after an event history. -/
def Reference.replay (c : Config) (r : Reference) (ev : List Event) : Reference :=
  ev.foldl (Reference.observe c) r

/-- The reference environment at a session's creation: adapter in terminal mode, device memory `m`,
cursor 0 (the initial values of 95_test_vectors section 4; banner "I2C1"). -/
def Reference.initial (kEnter : Nat) (m : List Host.Cell) : Reference where
  kEnter := kEnter
  banner := [0x49, 0x32, 0x43, 0x31]
  mode := .term
  resets := 0
  expectPayload := false
  mem := m
  cur := 0
  ah := 0
  st := .idle
  inFlight := false
  rows := []
  aborts := 0
  lost := false
  pending := []

/-! ### The oracle's answer -/

/-- Whether an event read the channel. -/
def isRead : Event → Bool
  | .tx _ => false
  | .drain _ => true
  | .collect _ _ => true
  | .settle => false

/-- What arrives on the channel while a read lasts, given the event history before it (R62). -/
def Env.answer (c : Config) (ev : List Event) : Env → List Byte
  | .free earlier => Config.oracle earlier ev
  | .scripted answers => answers.getD (ev.countP isRead) []
  | .reference r => (r.replay c ev).pending

/-- The reference environment after a session: its bytes that no read took are dropped, and a transaction
still in flight at the device, or open for the monitor, is aborted by the end of the session (R235,
R274). The first is a DESIGN CHOICE, log entry 5: R262 leaves open which unread bytes the new session
finds, and `State.reestablish` is given what it finds, any bytes at all. -/
def Reference.sessionEnded (isOpen : Bool) (r : Reference) : Reference :=
  { (if isOpen || r.inFlight then r.abort else r) with pending := [] }

/-- The environment as a later session finds it, after a session with event history `ev`, its monitor in a
transaction or not (70_reset R262). What device and adapter hold carries over in each kind of environment
(log entry 6). That the reference environment's unread bytes do not stay in it is a DESIGN CHOICE (log
entry 5): what the new session finds queued is `State.reestablish`'s argument. -/
def Env.after (c : Config) (ev : List Event) (isOpen : Bool) : Env → Env
  | .free earlier => .free (earlier ++ [ev])
  | .scripted answers => .scripted (answers.drop (ev.countP isRead))
  | .reference r => .reference ((r.replay c ev).sessionEnded isOpen)

/-- Device memory as the reference environment holds it; no other environment shows one (10_state R33). -/
def State.deviceMemory (s : State) : List Host.Cell :=
  match s.env with
  | .free _ => []
  | .scripted _ => []
  | .reference r => (r.replay s.cfg s.ev).mem

/-- A transaction is in flight at the reference device. -/
def State.deviceInFlight (s : State) : Bool :=
  match s.env with
  | .free _ => false
  | .scripted _ => false
  | .reference r => (r.replay s.cfg s.ev).inFlight

/-- The rows of the reference device that the transaction in flight addressed or wrote, by high address byte. -/
def State.rowsInFlight (s : State) : List Byte :=
  match s.env with
  | .free _ => []
  | .scripted _ => []
  | .reference r => (r.replay s.cfg s.ev).rows

end Sys2Proof.Machine
end

