-- ==== Sys2Proof/Machine/Ops.lean ====
section
/-! DEFINITION. Machine/Ops.lean: the shared operations every meaning is written from: the channel (transmit,
receive, drain, collect, settle), the step of a primitive, what an operation hands back to its caller,
raising an error, and refusal. -/

namespace Sys2Proof.Machine

/-! ### The channel -/

/-- The byte an event transmitted, if any. -/
def sentByte : Event → Option Byte
  | .tx b => some b
  | .drain _ => none
  | .collect _ _ => none
  | .settle => none

/-- `S.TX`: the bytes of the `TxEv` events, in order; what the bridge sees (10_state R23). -/
def State.tx (s : State) : List Byte := s.ev.filterMap sentByte

/-- Record an event: the history only grows (R23). -/
def State.record (e : Event) (s : State) : State := { s with ev := s.ev ++ [e] }

/-- `Tx(b)`: append one byte to the transmit stream; it returns when the byte is flushed (R23, R270). -/
def State.emit (b : Byte) (s : State) : State := s.record (.tx b)

/-- Bytes written one after the other, first to last (41_primitives R130). -/
def State.emitAll (bs : List Byte) (s : State) : State := bs.foldl (fun t b => t.emit b) s

/-- What the environment delivers while a read that starts now lasts (R62). -/
def State.arriving (s : State) : List Byte := s.env.answer s.cfg s.ev

/-- Everything a read that starts now can find: what is queued, then what arrives (R150, R151). -/
def State.incoming (s : State) : List Byte := s.rxq ++ s.arriving

/-- `Drain()`: read and discard whatever the channel holds (42_transactions R150). It cannot fail. -/
def State.drain (s : State) : State :=
  { s with rxq := [], ev := s.ev ++ [.drain s.incoming] }

/-- `Settle()`: wait `T_SETTLE` with no channel activity (R152). -/
def State.settle (s : State) : State := s.record .settle

/-- `Collect(n)`: take exactly `n` bytes, or fail by timeout with the channel desynchronized (R151). -/
def State.collect (n : Nat) (s : State) : State × Except Err (List Byte) :=
  let q := s.incoming
  if n ≤ q.length then
    ({ s with rxq := q.drop n, ev := s.ev ++ [.collect (q.take n) true] }, .ok (q.take n))
  else
    (State.desynchronize { s with rxq := [], ev := s.ev ++ [.collect q false] },
      .error (.ioTimeout n q.length))

/-- The signature read of one mode-entry attempt: up to `SIG_LEN` bytes from the head of the queue
(40_session R111). A short read is no error and sets no flag. Log entry 11. -/
def State.readSignature (s : State) : State × List Byte :=
  let n := s.cfg.sig.length
  let r := s.incoming.take n
  ({ s with rxq := s.incoming.drop n, ev := s.ev ++ [.collect r (decide (r.length = n))] }, r)

/-- The environment appends bytes to the tail of the receive queue (10_state R24). -/
def State.arrive (bs : List Byte) (s : State) : State := { s with rxq := s.rxq ++ bs }

/-! ### What is handed back to the caller (60_exceptions R220) -/

/-- An operation returns a result. -/
def State.answer (r : Reply) (s : State) : State := { s with replies := s.replies ++ [r] }

/-- `raise E(info)`: the operation ends at once and its caller has the error and no result. Nothing is
saved, no mode changes, control goes nowhere (R220, R233); there is no return from it (R234). -/
def State.raise (e : Err) (s : State) : State := s.answer (.raised e)

/-- `report E(info)`: append the error to the operation's list and go on (R220). -/
def report (e : Err) (errors : List Err) : List Err := errors ++ [e]

/-! ### Refusal (60_exceptions R230) -/

/-- A session operation has a step in one value of `S.SESSION` and is refused in every other (R110). -/
def State.inSession (want : Session) (s : State) (k : Result) : Result :=
  if s.session = want then k else .refused (.wrongSession s.session)

/-- Every operation of layers L0 to L2 has a step only when `S.SESSION = Ready` and
`S.DESYNC = false` (R22, R230). -/
def State.whenReady (s : State) (k : Result) : Result :=
  if s.session = .ready then
    if s.desync then .refused .desynchronized else k
  else .refused (.wrongSession s.session)

/-- Operands the operation has no step for are refused (R230, R232 item 3). -/
def withOperands (ok : Bool) (k : Result) : Result :=
  if ok then k else .refused .illFormedOperands

/-! ### The step of a primitive (41_primitives R130) -/

/-- What a primitive does where it has a step: its bytes, then the monitor. -/
def State.issue (p : Prim) (s : State) : State :=
  (s.emitAll (encode s.cfg p.toInstr)).monitor p

/-- `step(p)` (R130). -/
def stepPrim (p : Prim) (s : State) : Result := s.whenReady (.next (s.issue p))

/-- One element of a template's expansion. -/
def State.perform (a : Action) (s : State) : State :=
  match a with
  | .prim p => s.issue p
  | .drain => s.drain
  | .settle => s.settle

/-- A template's expansion, executed left to right and not interruptible (42_transactions R157). -/
def State.performAll (as : List Action) (s : State) : State := as.foldl (fun t a => t.perform a) s

end Sys2Proof.Machine
end

