-- ==== Sys2Proof/Machine/Bridge.lean ====
section
/-! DEFINITION. Machine/Bridge.lean: the session operations, the only writers of `S.SESSION` (40_session R110
to R117), and the re-establishment of a session from outside (70_reset R262). -/

namespace Sys2Proof.Machine

/-- `S.SESSION <- x`. -/
def State.goTo (x : Session) (s : State) : State := { s with session := x }

/-- One mode-entry attempt: reset-to-bridge, then the signature read (R111). -/
def State.attemptEntry (s : State) : State × List Byte :=
  (s.emit s.cfg.opcBridgeReset).readSignature

/-- The bounded retry loop of mode entry: at most `k` attempts, in order, ended by the first read that is
the signature (R111, R232 item 6). -/
def State.enterWithin : Nat → State → State
  | 0, s => (s.goTo .closed).raise .modeEntryError
  | k + 1, s =>
    if s.attemptEntry.2 = s.cfg.sig then (s.attemptEntry.1.goTo .bridgeEntered).answer .entered
    else State.enterWithin k s.attemptEntry.1

/-- enterBridgeMode() (R111). -/
def execEnterBridgeMode (s : State) : Result :=
  s.inSession .idle (.next (s.enterWithin s.cfg.nRetry))

/-- selectBusMode() (R113): the banner is drained, not checked. -/
def execSelectBusMode (s : State) : Result :=
  s.inSession .bridgeEntered (.next ((s.emit s.cfg.opcSelTwoWire).drain.goTo .busModeSelected))

/-- configurePower(true) (R114). -/
def execConfigurePowerOn (s : State) : Result :=
  s.inSession .busModeSelected (.next ((s.emit s.cfg.opcPwrOn).goTo .ready))

/-- configurePower(false) (R114), valid in `Ready` whatever `S.DESYNC`, `S.PHASE` and `S.VIOL` are. -/
def execConfigurePowerOff (s : State) : Result :=
  s.inSession .ready (.next ((s.emit s.cfg.opcPwrOff).goTo .closed))

/-- The collaborator gives the session up before `Ready`: no byte is written (R115, R240). -/
def callAbandon (s : State) : Result :=
  if s.session = .bridgeEntered ∨ s.session = .busModeSelected then .next (s.goTo .closed)
  else .refused (.wrongSession s.session)

/-- The bus supply and pull-ups: on from the transition into `Ready` to the transition out of it (R243,
R35). Log entry 16. -/
def State.busPower (s : State) : Bool := decide (s.session = .ready)

/-- A new session on the same channel (R262): a new state at the reset values, in which only what the
environment holds carries over; `rx` is what the channel holds at that moment. Not a step: `Closed` is
terminal (R116). -/
def State.reestablish (rx : List Byte) (s : State) : State :=
  { State.reset with rxq := rx, cfg := s.cfg, env := s.env.after s.cfg s.ev s.isOpen }

/-! ### The six bridge-level opcodes with no operation: "a model gives them encodings and no semantics"
(R117). Nothing emits them, so each is refused. -/

/-- select-SPI (R117). -/
def execSelectSpi (_s : State) : Result := .refused .neverEmitted

/-- select-UART (R117). -/
def execSelectUart (_s : State) : Result := .refused .neverEmitted

/-- select-one-wire (R117). -/
def execSelectOneWire (_s : State) : Result := .refused .neverEmitted

/-- select-raw-wire (R117). -/
def execSelectRawWire (_s : State) : Result := .refused .neverEmitted

/-- device-reset (R117). -/
def execDeviceReset (_s : State) : Result := .refused .neverEmitted

/-- self-test (R117). -/
def execSelfTest (_s : State) : Result := .refused .neverEmitted

end Sys2Proof.Machine
end

