-- ==== Sys2Proof/Machine/Transactions.lean ====
section
/-! DEFINITION. Machine/Transactions.lean: the channel actions and the three transaction templates
(42_transactions R150 to R157, 30_encoding R93). -/

namespace Sys2Proof.Machine

/-! ### Channel actions called directly -/

/-- `Drain()` (R150). -/
def callDrain (s : State) : Result := s.whenReady (.next s.drain)

/-- Hand the outcome of a `Collect` to the caller: its bytes, or `IOTimeout` (R151). -/
def State.handBack (x : State × Except Err (List Byte)) : State :=
  match x.2 with
  | .ok bs => x.1.answer (.collected bs)
  | .error e => x.1.raise e

/-- `Collect(n)` (R151); `Collect(0)` is never issued (R230). -/
def callCollect (n : Nat) (s : State) : Result :=
  s.whenReady (withOperands (decide (1 ≤ n)) (.next (State.handBack (s.collect n))))

/-- `Settle()` (R152). -/
def callSettle (s : State) : Result := s.whenReady (.next s.settle)

/-! ### Expansions (R93) -/

/-- `PTRSET hi, lo`: START, WRITE(CTRL_W), WRITE(hi), WRITE(lo) (R154). -/
def ptrsetActions (c : Config) (hi lo : Byte) : List Action :=
  [.prim .start, .prim (.write c.ctrlW), .prim (.write hi), .prim (.write lo)]

/-- `PAGEWR hi, lo, d`: the pointer-set, the drain, one WRITE per byte, STOP, the settle (R155). -/
def pagewrActions (c : Config) (hi lo : Byte) (d : List Byte) : List Action :=
  ptrsetActions c hi lo ++ [.drain] ++ d.map (fun b => .prim (.write b)) ++ [.prim .stop, .settle]

/-- `READSEQ n`: START, WRITE(CTRL_R), READ_ACK n-1 times, READ_NACK, STOP (R156). -/
def readseqActions (c : Config) (n : Nat) : List Action :=
  [.prim .start, .prim (.write c.ctrlR)] ++ List.replicate (n - 1) (.prim .readAck) ++
    [.prim .readNack, .prim .stop]

/-! ### Templates -/

/-- `PTRSET(hi, lo)` where it has a step. -/
def State.ptrset (hi lo : Byte) (s : State) : State := s.performAll (ptrsetActions s.cfg hi lo)

/-- `READSEQ(n)` where it has a step. -/
def State.readseq (n : Nat) (s : State) : State := s.performAll (readseqActions s.cfg n)

/-- `PTRSET(hi, lo)` (R154): the transaction is left open. -/
def callPtrset (hi lo : Byte) (s : State) : Result := s.whenReady (.next (s.ptrset hi lo))

/-- `READSEQ(n)` (R156): it reads nothing from the channel. -/
def callReadseq (n : Nat) (s : State) : Result :=
  s.whenReady (withOperands (decide (1 ≤ n)) (.next (s.readseq n)))

/-- What `PAGEWR` comes to in a state where templates have a step (R155). -/
inductive PageOutcome where
  /-- The operand is no page: no step. -/
  | refused
  /-- The row rule is broken: reported, nothing transmitted. -/
  | rejected
  /-- The whole transaction was written and settled. -/
  | committed (s : State)

/-- `PAGEWR(hi, lo, d)` in a state where templates have a step: the operand check, then the row check,
then the transaction (R155, R232 item 3). -/
def State.pageWrite (hi lo : Byte) (d : List Byte) (s : State) : PageOutcome :=
  if pageSized d.length then
    if fitsRow lo.toNat d.length then .committed (s.performAll (pagewrActions s.cfg hi lo d))
    else .rejected
  else .refused

/-- `PAGEWR(hi, lo, d)` (R155, R222). -/
def callPagewr (hi lo : Byte) (d : List Byte) (s : State) : Result :=
  s.whenReady
    (match s.pageWrite hi lo d with
    | .refused => .refused .illFormedOperands
    | .rejected => .next (s.answer (.page false (report (.pageBoundaryError none hi lo d.length) [])))
    | .committed t => .next (t.answer (.page true [])))

end Sys2Proof.Machine
end

