-- ==== Sys2Proof/Machine/BulkReader.lean ====
section
/-! DEFINITION. Machine/BulkReader.lean: `readBytes` (44_bulkreader R190 to R199). -/

namespace Sys2Proof.Machine

/-- Discard every second byte, keeping order (R192): the data byte is the first of each pair. -/
def deinterleave : List Byte → List Byte
  | [] => []
  | [a] => [a]
  | a :: _ :: rest => a :: deinterleave rest

/-- The buffer in what the `Collect` of step 5 returned: the first `READ_LEAD` bytes are discarded unread
(R197), then the pairs (R192). -/
def readBuffer (lead : Nat) (s : List Byte) : List Byte := deinterleave (s.drop lead)

/-- Steps 5 and 6 of R190: one `Collect` of the expected total after the STOP; a timeout is escalated and
no partial buffer is returned (R194). -/
def State.collectBuffer (n : Nat) (s : State) : State :=
  let x := s.collect (s.cfg.readLead + 2 * n)
  match x.2 with
  | .ok bs => x.1.answer (.buffer (readBuffer s.cfg.readLead bs))
  | .error e => x.1.raise e

/-- `readBytes((hi, lo), n)` (R190): pointer-set, drain, and for `n >= 1` the read sub-transaction and the
collect; for `n = 0` the transaction is left open (R193). There is no range check (R195). -/
def callReadBytes (hi lo : Byte) (n : Nat) (s : State) : Result :=
  s.whenReady
    (if n = 0 then .next ((s.ptrset hi lo).drain.answer (.buffer []))
    else .next (((s.ptrset hi lo).drain.readseq n).collectBuffer n))

end Sys2Proof.Machine
end

