-- ==== Sys2Proof/Machine/PageWriter.lean ====
section
/-! DEFINITION. Machine/PageWriter.lean: `writePages`, which cuts a buffer into page-write transactions
(43_pagewriter R170 to R178). -/

namespace Sys2Proof.Machine

/-- The page writer's local variables (R170): the running cursor, whose `hi` may reach 256 and is then no
address (R174), the offset, the chunk index, the bytes committed, the errors reported, and what is
left of the buffer. Created and consumed within one call (10_state R20). -/
structure WriteProgress where
  hi : Nat
  lo : Nat
  off : Nat
  idx : Nat
  written : Nat
  errors : List Err
  rest : List Byte
  deriving DecidableEq, Repr

/-- Where a call starts. -/
def WriteProgress.start (data : List Byte) (hi lo : Byte) : WriteProgress where
  hi := hi.toNat
  lo := lo.toNat
  off := 0
  idx := 0
  written := 0
  errors := []
  rest := data

/-- Move past a chunk of `n` bytes: the cursor by linear addition, no wrap to 0 (R174). -/
def WriteProgress.advance (n : Nat) (w : WriteProgress) : WriteProgress :=
  { w with
    hi := (w.hi * 256 + w.lo + n) / 256
    lo := (w.hi * 256 + w.lo + n) % 256
    off := w.off + n
    idx := w.idx + 1
    rest := w.rest.drop n }

/-- The chunk was committed: its bytes count (R176). -/
def WriteProgress.commit (n : Nat) (w : WriteProgress) : WriteProgress :=
  { w with written := w.written + n }

/-- An error was reported on the way (R220). -/
def WriteProgress.reporting (e : Err) (w : WriteProgress) : WriteProgress :=
  { w with errors := report e w.errors }

/-- The error of data left when the address space has ended (R175). -/
def WriteProgress.exhausted (w : WriteProgress) : Err :=
  .addressSpaceExhausted w.idx w.off w.rest.length

/-- The loop of R170, at most `k` chunks: exhaustion is tested at its head and only while data remains
(R175); a rejected chunk is skipped, not counted, and the cursor still moves over it (R173). `none`: a
chunk was no page, which R172 rules out. -/
def writeChunks : Nat → WriteProgress → State → Option (WriteProgress × State)
  | 0, w, s => some (w, s)
  | k + 1, w, s =>
    if w.rest = [] then some (w, s)
    else if 255 < w.hi then some (w.reporting w.exhausted, s)
    else
      let n := chunkLength w.rest.length w.lo
      let hi := BitVec.ofNat 8 w.hi
      let lo := BitVec.ofNat 8 w.lo
      match s.pageWrite hi lo (w.rest.take n) with
      | .refused => none
      | .rejected =>
        writeChunks k ((w.reporting (.pageBoundaryError (some w.idx) hi lo n)).advance n) s
      | .committed t => writeChunks k ((w.advance n).commit n) t

/-- `writePages(data, (hi, lo))` (R170): the pre-flight check (R171), then the chunks. Every chunk takes
at least one byte, so the buffer's length bounds their number. -/
def callWritePages (data : List Byte) (hi lo : Byte) (s : State) : Result :=
  s.whenReady
    (if addressSpace < data.length then .next (s.raise (.sourceTooLarge data.length))
    else
      match writeChunks data.length (WriteProgress.start data hi lo) s with
      | none => .refused .illFormedOperands
      | some (w, t) => .next (t.answer (.written w.written w.errors)))

end Sys2Proof.Machine
end

