-- ==== Sys2Proof/Machine/Verifier.lean ====
section
/-! DEFINITION. Machine/Verifier.lean: `compare`, a pure function on two byte lists (45_verifier R210 to R213). -/

namespace Sys2Proof.Machine

/-- The scan: the first differing index, counting from `i`, and the two differing values. -/
def firstMismatch (i : Nat) : List Byte → List Byte → Verdict
  | e :: es, a :: as => if e = a then firstMismatch (i + 1) es as else .mismatch i e a
  | [], [] => .agree
  | [], _ :: _ => .agree
  | _ :: _, [] => .agree

/-- `compare(expected, actual)`: lengths first, then index by index (R210). -/
def compareBytes (expected actual : List Byte) : Verdict :=
  if expected.length = actual.length then firstMismatch 0 expected actual
  else .failed (.lengthMismatch expected.length actual.length)

/-- `compare` as an operation: it has a step in every state and touches none of it; its caller has the
verdict (R210, R230). -/
def callCompare (expected actual : List Byte) (s : State) : Result :=
  .next (s.answer (.verdict (compareBytes expected actual)))

end Sys2Proof.Machine
end

