-- ==== Sys2Proof/Machine/Calls.lean ====
section
/-! DEFINITION. Machine/Calls.lean: the operations with no opcode, dispatched. -/

namespace Sys2Proof.Machine

/-- `MemRead(addr, n)`: `readBytes((addr[15:8], addr[7:0]), n)` (00_scope R13). -/
def memRead (addr n : Nat) : Call := .readBytes (highByte addr) (lowByte addr) n

/-- `MemWrite(addr, n, v)` with `|v| = n`: `writePages(v, (addr[15:8], addr[7:0]))` (00_scope R13). -/
def memWrite (addr : Nat) (v : List Byte) : Call := .writePages v (highByte addr) (lowByte addr)

/-- The meaning of an operation that has no opcode. -/
def runCall (c : Call) (s : State) : Result :=
  match c with
  | .drain => callDrain s
  | .collect n => callCollect n s
  | .settle => callSettle s
  | .ptrset hi lo => callPtrset hi lo s
  | .pagewr hi lo d => callPagewr hi lo d s
  | .readseq n => callReadseq n s
  | .writePages d hi lo => callWritePages d hi lo s
  | .readBytes hi lo n => callReadBytes hi lo n s
  | .compare e a => callCompare e a s
  | .abandon => callAbandon s

end Sys2Proof.Machine
end

