-- ==== Sys2Proof/Machine/Primitives.lean ====
section
/-! DEFINITION. Machine/Primitives.lean: the five primitives, the block proper (41_primitives R130 to R138). -/

namespace Sys2Proof.Machine

/-- START (R132). -/
def execStart (s : State) : Result := stepPrim .start s

/-- WRITE(b) (R133). -/
def execWrite (b : Byte) (s : State) : Result := stepPrim (.write b) s

/-- READ_ACK (R134). -/
def execReadAck (s : State) : Result := stepPrim .readAck s

/-- READ_NACK (R135). -/
def execReadNack (s : State) : Result := stepPrim .readNack s

/-- STOP (R136). -/
def execStop (s : State) : Result := stepPrim .stop s

end Sys2Proof.Machine
end

