-- ==== Sys2Proof/Machine/Dispatch.lean ====
section
/-! DEFINITION. Machine/Dispatch.lean: one arm per row of spec/opcode_table.json. -/

namespace Sys2Proof.Machine

/-- The meaning of an opcode-bearing operation. -/
def exec (i : Instr) (s : State) : Host.Outcome State Fault Refusal :=
  match i with
  -- the five primitives (41_primitives)
  | .start => Sys2Proof.Machine.execStart s
  | .write b => Sys2Proof.Machine.execWrite b s
  | .readAck => Sys2Proof.Machine.execReadAck s
  | .readNack => Sys2Proof.Machine.execReadNack s
  | .stop => Sys2Proof.Machine.execStop s
  -- the session operations (40_session R111 to R114)
  | .configurePowerOn => Sys2Proof.Machine.execConfigurePowerOn s
  | .configurePowerOff => Sys2Proof.Machine.execConfigurePowerOff s
  | .enterBridgeMode => Sys2Proof.Machine.execEnterBridgeMode s
  | .selectBusMode => Sys2Proof.Machine.execSelectBusMode s
  -- the opcodes no operation emits (40_session R117)
  | .selectSpi => Sys2Proof.Machine.execSelectSpi s
  | .selectUart => Sys2Proof.Machine.execSelectUart s
  | .selectOneWire => Sys2Proof.Machine.execSelectOneWire s
  | .selectRawWire => Sys2Proof.Machine.execSelectRawWire s
  | .deviceReset => Sys2Proof.Machine.execDeviceReset s
  | .selfTest => Sys2Proof.Machine.execSelfTest s

end Sys2Proof.Machine
end

