-- ==== Sys2Proof/Machine/Fetch.lean ====
section
/-! DEFINITION. Machine/Fetch.lean: how the next command is taken. There is no program counter and no
instruction memory (10_state R21, 20_memory R64): commands are handed over in order. Log entry 7. -/

namespace Sys2Proof.Machine

/-- What the caller's next command is, with the state in which it is no longer to be handed over. -/
inductive Fetched where
  | nothing
  | instr (i : Instr) (s : State)
  | call (c : Call) (s : State)
  | arrive (bs : List Byte) (s : State)
  | invalid (why : DecodeError)

/-- The first command taken off the list. -/
def State.pop (s : State) : State := { s with commands := s.commands.tail }

/-- A command put at the head of the list. -/
def State.push (c : Command) (s : State) : State := { s with commands := c :: s.commands }

/-- A command given by its bytes is decoded in the table that `S.SESSION` selects (30_encoding R83, R85). -/
def State.fetchEncoded (bs : List Byte) (s : State) : Fetched :=
  match decodeOne s.cfg s.session.table bs with
  | .ok i => .instr i s.pop
  | .error e => .invalid e

/-- Take the next command. -/
def State.fetch (s : State) : Fetched :=
  match s.commands with
  | [] => .nothing
  | .operation i :: _ => .instr i s.pop
  | .encoded bs :: _ => s.fetchEncoded bs
  | .call c :: _ => .call c s.pop
  | .arrive bs :: _ => .arrive bs s.pop

end Sys2Proof.Machine
end

