-- ==== Sys2Proof/Machine/Step.lean ====
section
/-! DEFINITION. Machine/Step.lean: one step of the machine, and how an instruction is put where the next step
takes it. -/

namespace Sys2Proof.Machine

/-- One step: take the caller's next command and do it. With nothing handed over there is no step. -/
def step (s : State) : Host.Outcome State Fault Refusal :=
  match s.fetch with
  | .nothing => .refused .noCommand
  | .instr i t => exec i t
  | .call c t => runCall c t
  | .arrive bs t => .next (t.arrive bs)
  | .invalid e => .fault (.invalidEncoding e)

/-- Hand the machine one more operation, given by its bytes, to be done next, in a session state whose table
reads those bytes as that operation (30_encoding R83). Log entries 7 and 8. -/
def State.withFetchWord (s : State) (nbits w : Nat) : State :=
  (s.push (.encoded (wordBytes nbits w))).goTo (placeFor s.cfg s.session (wordBytes nbits w))

end Sys2Proof.Machine
end

