-- ==== Sys2Proof/Machine/Assembler.lean ====
section
/-! DEFINITION. Machine/Assembler.lean: the text form of operations (30_encoding R92): one operation per line,
names in capitals, operands decimal or `0x` hexadecimal, `#` starts a comment. A line that is not of
that form is rejected. The text form is the spec's own (D25) and no part of the machine. Log entry 17. -/

namespace Sys2Proof.Machine.Assembler

/-- What stands before a comment. -/
def withoutComment (line : List Char) : List Char := line.takeWhile (fun ch => ch ≠ '#')

/-- Close the token read so far, whose characters stand last first. -/
def close (cur : List Char) (ts : List (List Char)) : List (List Char) :=
  if cur = [] then ts else cur.reverse :: ts

/-- The tokens of a line: words between blanks, and each comma by itself. -/
def tokens : List Char → List Char → List (List Char)
  | cur, [] => close cur []
  | cur, ch :: rest =>
    if ch = ' ' ∨ ch = '\t' then close cur (tokens [] rest)
    else if ch = ',' then close cur ([','] :: tokens [] rest)
    else tokens (ch :: cur) rest

/-- The value of a digit. -/
def digit (ch : Char) : Option Nat :=
  let n := ch.toNat
  if 48 ≤ n ∧ n ≤ 57 then some (n - 48)
  else if 65 ≤ n ∧ n ≤ 70 then some (n - 55)
  else if 97 ≤ n ∧ n ≤ 102 then some (n - 87)
  else none

/-- Digits read most significant first, in the given base. -/
def digits (base : Nat) : Nat → List Char → Option Nat
  | acc, [] => some acc
  | acc, ch :: rest =>
    match digit ch with
    | none => none
    | some d => if d < base then digits base (acc * base + d) rest else none

/-- A number: decimal, or hexadecimal after `0x`. -/
def number : List Char → Option Nat
  | [] => none
  | [ch] => digits 10 0 [ch]
  | '0' :: 'x' :: [] => none
  | '0' :: 'x' :: ch :: rest => digits 16 0 (ch :: rest)
  | a :: b :: rest => digits 10 0 (a :: b :: rest)

/-- A byte, 0 to 255. -/
def byte (t : List Char) : Option Byte :=
  match number t with
  | none => none
  | some n => if n < 256 then some (BitVec.ofNat 8 n) else none

/-- Bytes separated by blanks. -/
def bytes : List (List Char) → Option (List Byte)
  | [] => some []
  | t :: ts =>
    match byte t, bytes ts with
    | some b, some bs => some (b :: bs)
    | none, _ => none
    | some _, none => none

/-- `hi, lo` and what follows. -/
def address : List (List Char) → Option (Byte × Byte × List (List Char))
  | h :: [','] :: l :: rest =>
    match byte h, byte l with
    | some hi, some lo => some (hi, lo, rest)
    | none, _ => none
    | some _, none => none
  | _ => none

/-- An operation whose one operand is a number. -/
def withNumber (f : Nat → Command) : List (List Char) → Option Command
  | [t] => (number t).map f
  | _ => none

/-- `PTRSET <hi>, <lo>`. -/
def ptrsetLine (args : List (List Char)) : Option Command :=
  match address args with
  | some (hi, lo, []) => some (.call (.ptrset hi lo))
  | some (_, _, _ :: _) => none
  | none => none

/-- `PAGEWR <hi>, <lo>, <b0> <b1> ...`. -/
def pagewrLine (args : List (List Char)) : Option Command :=
  match address args with
  | some (hi, lo, [','] :: ts) => (bytes ts).map (fun d => .call (.pagewr hi lo d))
  | _ => none

/-- An operation with no operand. -/
def bare (c : Command) : List (List Char) → Option Command
  | [] => some c
  | _ :: _ => none

/-- The operation a line of tokens names (the table of R92). -/
def operation (name : List Char) (args : List (List Char)) : Option Command :=
  if name = "START".toList then bare (.operation .start) args
  else if name = "WRITE".toList then
    match args with
    | [t] => (byte t).map (fun b => .operation (.write b))
    | _ => none
  else if name = "READ_ACK".toList then bare (.operation .readAck) args
  else if name = "READ_NACK".toList then bare (.operation .readNack) args
  else if name = "STOP".toList then bare (.operation .stop) args
  else if name = "DRAIN".toList then bare (.call .drain) args
  else if name = "COLLECT".toList then withNumber (fun n => .call (.collect n)) args
  else if name = "SETTLE".toList then bare (.call .settle) args
  else if name = "PTRSET".toList then ptrsetLine args
  else if name = "PAGEWR".toList then pagewrLine args
  else if name = "READSEQ".toList then withNumber (fun n => .call (.readseq n)) args
  else none

/-- One line: nothing for a line that is empty or all comment, else its operation. -/
def line (l : List Char) : Option (List Command) :=
  match tokens [] (withoutComment l) with
  | [] => some []
  | name :: args => (operation name args).map (fun c => [c])

/-- A program: its lines in order; one bad line rejects it. -/
def program : List (List Char) → Option (List Command)
  | [] => some []
  | l :: ls =>
    match line l, program ls with
    | some cs, some ds => some (cs ++ ds)
    | none, _ => none
    | some _, none => none

end Sys2Proof.Machine.Assembler
end

