-- ==== Sys2Proof/Safety.lean ====
section
/-! DEFINITION. Safety.lean: what claims about runs are stated in: a final run (70_reset R283), and the
invariant of the real and ghost flags (10_state R25, R27, R35). -/

namespace Sys2Proof.Machine

/-- A run that may be called final (R283, R274): nothing more is to be handed over, no transaction is left
open, and the session is closed, or stands in `Ready` with the transaction complete. Log entry 15. -/
def State.isFinal (s : State) : Bool :=
  s.commands.isEmpty && !s.isOpen &&
    (decide (s.session = .closed) || (decide (s.session = .ready) && s.complete))

/-- `k` steps, one command each, stopping at the first refusal or fault. -/
def run : Nat → State → Result
  | 0, s => .next s
  | k + 1, s =>
    match step s with
    | .next t => run k t
    | .fault f => .fault f
    | .refused r => .refused r

/-- The session has not yet reached `Ready` and was not closed. -/
def State.beforeReady (s : State) : Bool :=
  match s.session with
  | .idle => true
  | .bridgeEntered => true
  | .busModeSelected => true
  | .ready => false
  | .closed => false

/-- The flags tell one story: the monitor is in `Unknown` exactly when a violation or a
desynchronization was recorded (R25, R27), and before `Ready` neither has happened and no transaction
has begun (R35). -/
structure State.FlagsAgree (s : State) : Prop where
  unknown_iff : s.phase = .unknown ↔ s.viol = true ∨ s.desync = true
  before : s.beforeReady = true → s.phase = .busIdle ∧ s.viol = false ∧ s.desync = false

/-! ### Byte and event sequences the spec writes out, in which claims about templates are stated -/

/-- The seven bytes of `PTRSET(hi, lo)` (42_transactions R154). -/
def ptrsetBytes (c : Config) (hi lo : Byte) : List Byte :=
  [c.opcStart, c.opcWrite1, c.ctrlW, c.opcWrite1, hi, c.opcWrite1, lo]

/-- Each byte of a buffer as one WRITE: `2n` bytes (R155). -/
def dataBytes (c : Config) (d : List Byte) : List Byte := d.flatMap (fun b => [c.opcWrite1, b])

/-- The `2n + 4` bytes of `READSEQ(n)` (R156). -/
def readseqBytes (c : Config) (n : Nat) : List Byte :=
  [c.opcStart, c.opcWrite1, c.ctrlR] ++
    (List.replicate (n - 1) [c.opcRead, c.opcAck]).flatten ++ [c.opcRead, c.opcNack, c.opcStop]

/-- The events of one committed page write at linear address `a`, its drain having discarded `drained`
(R155). -/
def pageEvents (c : Config) (a : Nat) (d drained : List Byte) : List Event :=
  (ptrsetBytes c (highByte a) (lowByte a)).map .tx ++ [.drain drained] ++
    (dataBytes c d).map .tx ++ [.tx c.opcStop, .settle]

/-- The events of mode-entry attempts that read these bytes, one reset-to-bridge and one signature read each
(40_session R111). -/
def entryEvents (c : Config) (got : List (List Byte)) : List Event :=
  got.flatMap (fun r => [.tx c.opcBridgeReset, .collect r (decide (r.length = c.sig.length))])

/-! ### The receive queue's account (10_state R24) -/

/-- The bytes that events took off the channel, in order. -/
def takenBytes : List Event → List Byte
  | [] => []
  | .tx _ :: es => takenBytes es
  | .drain bs :: es => bs ++ takenBytes es
  | .collect bs _ :: es => bs ++ takenBytes es
  | .settle :: es => takenBytes es

/-- The bytes that arrived at the reads among events, in order, after the history `before` (20_memory R62). -/
def answeredBytes (c : Config) (env : Env) : List Event → List Event → List Byte
  | _, [] => []
  | before, e :: es =>
    (if isRead e then env.answer c before else []) ++ answeredBytes c env (before ++ [e]) es

/-- The bytes that arrive by the next command, if that is an arrival. -/
def State.arrivingNext (s : State) : List Byte :=
  match s.commands with
  | [] => []
  | .operation _ :: _ => []
  | .encoded _ :: _ => []
  | .call _ :: _ => []
  | .arrive bs :: _ => bs

/-! ### Transactions as the monitor admits them (10_state R28) -/

/-- A START is legal here: no transaction is open, or one is open with written bytes (R27). -/
def Phase.mayStart (ph : Phase) : Bool := decide (ph = .busIdle) || decide (ph = .writeSeg)

/-- `START WRITE(CTRL_W) WRITE(b)*`. -/
def writeSegment (c : Config) (bs : List Byte) : List Prim :=
  [.start, .write c.ctrlW] ++ bs.map .write

/-- `START WRITE(CTRL_R) READ_ACK* READ_NACK`. -/
def readSegment (c : Config) (n : Nat) : List Prim :=
  [.start, .write c.ctrlR] ++ List.replicate n .readAck ++ [.readNack]

/-- `Transaction ::= Segment* LastSegment STOP` (R28). -/
def IsTransaction (c : Config) (ps : List Prim) : Prop :=
  ∃ segs : List (List Byte),
    (∃ bs, ps = segs.flatMap (writeSegment c) ++ writeSegment c bs ++ [.stop]) ∨
      (∃ n, ps = segs.flatMap (writeSegment c) ++ readSegment c n ++ [.stop])

/-- A list of primitives as commands to hand over, in order. -/
def primCommands (ps : List Prim) : List Command := ps.map (fun p => .operation p.toInstr)

/-! ### The session's moves (10_state R22) -/

/-- The transitions R22 lists, and staying. -/
def Session.mayMove : Session → Session → Bool
  | .idle, .bridgeEntered => true
  | .bridgeEntered, .busModeSelected => true
  | .busModeSelected, .ready => true
  | .ready, .closed => true
  | .idle, .closed => true
  | .bridgeEntered, .closed => true
  | .busModeSelected, .closed => true
  | a, b => decide (a = b)

/-- Which operations may put bytes on the channel in a session state (30_encoding R82, 60 R230). -/
def Session.mayEmit : Session → Instr → Bool
  | .idle, i => decide (i = .enterBridgeMode)
  | .bridgeEntered, i => decide (i = .selectBusMode)
  | .busModeSelected, i => decide (i = .configurePowerOn)
  | .ready, .start => true
  | .ready, .write _ => true
  | .ready, .readAck => true
  | .ready, .readNack => true
  | .ready, .stop => true
  | .ready, i => decide (i = .configurePowerOff)
  | .closed, _ => false

/-! ### A well-formed reference environment (95_test_vectors section 4) -/

/-- The reference environment, if that is what answers, holds its device memory in canonical form and its
cursor inside the device. -/
def Env.DeviceWf : Env → Prop
  | .free _ => True
  | .scripted _ => True
  | .reference r => Memory.wf r.mem ∧ r.cur < addressSpace

/-- The reference device as a session finds it once bring-up is done: in two-wire mode, with no payload
byte expected and no aborted transaction behind it. -/
def State.deviceListening (s : State) : Prop :=
  match s.env with
  | .free _ => False
  | .scripted _ => False
  | .reference r =>
    (r.replay s.cfg s.ev).mode = .twoWire ∧ (r.replay s.cfg s.ev).expectPayload = false ∧
      (r.replay s.cfg s.ev).lost = false

end Sys2Proof.Machine
end

