-- ==== Sys2Proof/Certificates/Slice0/Obligations.lean ====
section
/-! DEFINITION. Obligations.lean: the statements about the model, from the numbered rules of spec/. A state is
any state: its parameters, its environment and its queues are quantified over unless a hypothesis
says otherwise. -/

open Sys2Proof Sys2Proof.Machine Host

/-! ### The five primitives (41_primitives R130 to R138) -/

/-- R132. START where it has a step: one byte, the monitor, nothing else. -/
def Obligations.StartEmitsStartOpcode : Prop :=
  ∀ s : State, s.session = .ready → s.desync = false →
    exec .start s = .next { s with
      ev := s.ev ++ [.tx s.cfg.opcStart]
      phase := if s.phase = .busIdle ∨ s.phase = .writeSeg then .started else .unknown
      viol := s.viol || !(s.phase = .busIdle ∨ s.phase = .writeSeg ∨ s.phase = .unknown) }

/-- R133. WRITE(b) for every payload, opcode values included. -/
def Obligations.WriteEmitsOpcodeThenPayload : Prop :=
  ∀ (s : State) (b : Byte), s.session = .ready → s.desync = false →
    exec (.write b) s = .next { s with
      ev := s.ev ++ [.tx s.cfg.opcWrite1, .tx b]
      phase :=
        if s.phase = .writeSeg ∨ (s.phase = .started ∧ b = s.cfg.ctrlW) then .writeSeg
        else if s.phase = .started ∧ b = s.cfg.ctrlR then .readSeg
        else .unknown
      viol := s.viol || !(s.phase = .writeSeg ∨ s.phase = .unknown ∨
        (s.phase = .started ∧ (b = s.cfg.ctrlW ∨ b = s.cfg.ctrlR))) }

/-- R134. READ_ACK: two opcodes back to back, legal in a read segment, which it keeps. -/
def Obligations.ReadAckEmitsReadThenAck : Prop :=
  ∀ s : State, s.session = .ready → s.desync = false →
    exec .readAck s = .next { s with
      ev := s.ev ++ [.tx s.cfg.opcRead, .tx s.cfg.opcAck]
      phase := if s.phase = .readSeg then .readSeg else .unknown
      viol := s.viol || !(s.phase = .readSeg ∨ s.phase = .unknown) }

/-- R135. READ_NACK: two opcodes back to back, ending a read segment. -/
def Obligations.ReadNackEmitsReadThenNack : Prop :=
  ∀ s : State, s.session = .ready → s.desync = false →
    exec .readNack s = .next { s with
      ev := s.ev ++ [.tx s.cfg.opcRead, .tx s.cfg.opcNack]
      phase := if s.phase = .readSeg then .readDone else .unknown
      viol := s.viol || !(s.phase = .readSeg ∨ s.phase = .unknown) }

/-- R136. STOP: one byte, closing a transaction with written bytes or a finished read. -/
def Obligations.StopEmitsStopOpcode : Prop :=
  ∀ s : State, s.session = .ready → s.desync = false →
    exec .stop s = .next { s with
      ev := s.ev ++ [.tx s.cfg.opcStop]
      phase := if s.phase = .writeSeg ∨ s.phase = .readDone then .busIdle else .unknown
      viol := s.viol || !(s.phase = .writeSeg ∨ s.phase = .readDone ∨ s.phase = .unknown) }

/-- R130, R133 to R136, R230, U6: outside `Ready`, or desynchronized, a primitive has no step. The names of the
reasons, and that the session is named before the desynchronization, are the model's (log entry 9). -/
def Obligations.PrimitiveRefusedUnlessReady : Prop :=
  ∀ (s : State) (p : Prim),
    (s.session ≠ .ready → exec p.toInstr s = .refused (.wrongSession s.session)) ∧
    (s.session = .ready → s.desync = true → exec p.toInstr s = .refused .desynchronized)

/-- R130: "a pure function from the sequence of commands to the sequence of bytes": a program of
primitives, handed over one by one, transmits the concatenation of their encodings, reads nothing and
leaves every other field alone but the ghost ones. -/
def Obligations.PrimitiveProgramTransmitsItsEncoding : Prop :=
  ∀ (s : State) (ps : List Prim) (rest : List Command), s.session = .ready → s.desync = false →
    ∃ ph v, run ps.length { s with commands := primCommands ps ++ rest } = .next { s with
      ev := s.ev ++ (encodeAll s.cfg (ps.map Prim.toInstr)).map .tx
      phase := ph
      viol := v
      commands := rest }

/-- R28: the sequences the monitor admits from `BusIdle` back to `BusIdle` are exactly the concatenations
of `Transaction`s of the grammar. -/
def Obligations.MonitorAdmitsExactlyTransactions : Prop :=
  ∀ (s : State) (ps : List Prim) (rest : List Command),
    s.session = .ready → s.desync = false → s.phase = .busIdle → s.viol = false →
    ∃ t, run ps.length { s with commands := primCommands ps ++ rest } = .next t ∧
      (t.complete = true ↔
        ∃ ts : List (List Prim), (∀ x ∈ ts, IsTransaction s.cfg x) ∧ ps = ts.flatten)

/-! ### Encoding and decoding (30_encoding) -/

/-- R81, R82, R84, R85: every operation decodes from its own encoding, in its own table and whatever follows
it, for every parameter record. -/
def Obligations.DecodeInvertsEncode : Prop :=
  ∀ (c : Config) (i : Instr) (rest : List Byte),
    decodeHead c i.table (encode c i ++ rest) = .ok (i, rest)

/-- R85: a stream of operations of one table decodes to exactly those operations. -/
def Obligations.StreamDecodesToItsOperations : Prop :=
  ∀ (c : Config) (t : OpTable) (is : List Instr), (∀ i ∈ is, i.table = t) →
    decodeStream c t (encodeAll c is) = .ok is

/-- R81, R85: `enc` of a list of primitives is injective. -/
def Obligations.EncodingOfPrimitivesIsInjective : Prop :=
  ∀ (c : Config) (ps qs : List Prim),
    encodeAll c (ps.map Prim.toInstr) = encodeAll c (qs.map Prim.toInstr) → ps = qs

/-- R86: the decoder accepts nothing but encodings of operations of the table, for any parameters. -/
def Obligations.DecoderAcceptsOnlyEncodings : Prop :=
  ∀ (c : Config) (t : OpTable) (bs rest : List Byte) (i : Instr),
    decodeHead c t bs = .ok (i, rest) → i.table = t ∧ bs = encode c i ++ rest

/-- R90: the control bytes are the device address doubled, plus the read bit or its complement. -/
def Obligations.ControlBytesAreAssembled : Prop :=
  ∀ c : Config,
    c.ctrlR.toNat = c.devAddr7.toNat * 2 + c.rwRead.toNat ∧
    c.ctrlW.toNat = c.devAddr7.toNat * 2 + (1 - c.rwRead.toNat) ∧
    c.ctrlW ≠ c.ctrlR

/-- R81, R82, R95: words of the opcode table, written out from its patterns, decode to their rows. The
values are the PRESUMED defaults (log entries 2 and 8). The two words that are rows of both tables are
told apart by the session state (R83). -/
def Obligations.TableWordsDecode : Prop :=
  decodeTableWord 8 0b00000010 = some .start ∧
  decodeTableWord 16 0b0001000011011110 = some (.write 0xDE) ∧
  decodeTableWord 16 0b0000010000000110 = some .readAck ∧
  decodeTableWord 16 0b0000010000000111 = some .readNack ∧
  decodeTableWord 8 0b01001100 = some .configurePowerOn ∧
  decodeTableWord 8 0b00000000 = some .enterBridgeMode ∧
  decodeTableWord 8 0b00001111 = some .deviceReset ∧
  decodeTableWord 16 0b0000010000000011 = none ∧
  decodeWordIn .ready 8 0b00000011 = some .stop ∧
  decodeWordIn .bridgeEntered 8 0b00000010 = some .selectBusMode ∧
  decodeWordIn .bridgeEntered 8 0b00000011 = some .selectUart ∧
  decodeWordIn .idle 8 0b01001100 = none

/-- R92: the text form of each operation, one line each, names what it stands for; a comment is nothing, and
a byte above 255 or a missing operand is rejected (the details are the model's, log entry 17). -/
def Obligations.TextFormNamesEveryOperation : Prop :=
  Assembler.line "START".toList = some [.operation .start] ∧
  Assembler.line "WRITE 222 # data".toList = some [.operation (.write 0xDE)] ∧
  Assembler.line "READ_ACK".toList = some [.operation .readAck] ∧
  Assembler.line "READ_NACK".toList = some [.operation .readNack] ∧
  Assembler.line "STOP".toList = some [.operation .stop] ∧
  Assembler.line "DRAIN".toList = some [.call .drain] ∧
  Assembler.line "COLLECT 6".toList = some [.call (.collect 6)] ∧
  Assembler.line "SETTLE".toList = some [.call .settle] ∧
  Assembler.line "PTRSET 0x12, 0x34".toList = some [.call (.ptrset 0x12 0x34)] ∧
  Assembler.line "PAGEWR 0, 0x10, 0xDE 0xAD".toList = some [.call (.pagewr 0 0x10 [0xDE, 0xAD])] ∧
  Assembler.line "READSEQ 3".toList = some [.call (.readseq 3)] ∧
  Assembler.line "# nothing".toList = some [] ∧
  Assembler.line "WRITE 256".toList = none ∧
  Assembler.line "WRITE".toList = none

/-! ### The step -/

/-- R21, R83, R94: one step does the command at the head of the list, with that command handed over; a command
given by bytes is the operation its bytes decode to in the table the session state selects, the
bridge-level one in `Idle` and `BridgeEntered` and the two-wire one from `BusModeSelected` on. That
commands wait in a list, that one is an arrival, and the table in `Closed`, are the model's choice (log
entries 7 and 8). -/
def Obligations.StepRunsTheNextCommand : Prop :=
  ∀ (s : State) (rest : List Command),
    (∀ i, s.commands = .operation i :: rest → step s = exec i { s with commands := rest }) ∧
    (∀ t bs, s.commands = .encoded bs :: rest →
      t = (if s.session = .idle ∨ s.session = .bridgeEntered then .bridge else .twoWire) →
      (∀ i, decodeOne s.cfg t bs = .ok i → step s = exec i { s with commands := rest }) ∧
      (∀ e, decodeOne s.cfg t bs = .error e → step s = .fault (.invalidEncoding e))) ∧
    (∀ c, s.commands = .call c :: rest → step s = runCall c { s with commands := rest }) ∧
    (∀ bs, s.commands = .arrive bs :: rest →
      step s = .next { s with commands := rest, rxq := s.rxq ++ bs }) ∧
    (s.commands = [] → step s = .refused .noCommand)

/-- The word the host places runs as the operation that the table of the session state makes of it, where
that operation has its step in this session state; elsewhere it runs as the instruction the decoder
reads when no session state is named, in the session state of that row's mode. For any state whose
parameters are the defaults (the model's own interface, log entries 7 and 8). -/
def Obligations.PlacedWordRunsAsDecoded : Prop :=
  ∀ (s : State) (nbits w : Nat), s.cfg = Config.standard →
    (∀ i, decodeWordIn s.session nbits w = some i → i.home = s.session →
      step (s.withFetchWord nbits w) = exec i s) ∧
    (∀ i, (∀ j, decodeWordIn s.session nbits w = some j → j.home ≠ s.session) →
      decodeTableWord nbits w = some i →
      step (s.withFetchWord nbits w) = exec i { s with session := i.home })

/-! ### Session operations (40_session) -/

/-- R111, R24: everything `enterBridgeMode` does. It makes between 1 and `N_RETRY` attempts, each one
reset-to-bridge and one read of at most `SIG_LEN` bytes, and ends at the first read that is the
signature, or closes the session after `N_RETRY` others. The bytes of each read are the head of what is
queued and arrives, and the rest is the queue of the next attempt (`left k` before attempt `k`). Flags,
parameters and environment stay. It is refused in every other session state. That a read takes all it
can of what is there is the model's reading of R111 (log entry 11). -/
def Obligations.EnterBridgeModeRetriesUntilSignature : Prop :=
  ∀ s : State,
    (s.session ≠ .idle → exec .enterBridgeMode s = .refused (.wrongSession s.session)) ∧
    (s.session = .idle → ∃ (reads : List (List Byte)) (left : Nat → List Byte) (ok : Bool),
      exec .enterBridgeMode s = .next { s with
        session := if ok then .bridgeEntered else .closed
        ev := s.ev ++ entryEvents s.cfg reads
        rxq := left reads.length
        replies := s.replies ++ [if ok then .entered else .raised .modeEntryError] } ∧
      left 0 = s.rxq ∧
      (∀ k, ∀ h : k < reads.length, ∃ found,
        found = left k ++ s.env.answer s.cfg
          (s.ev ++ entryEvents s.cfg (reads.take k) ++ [.tx s.cfg.opcBridgeReset]) ∧
        reads[k] = found.take s.cfg.sig.length ∧ left (k + 1) = found.drop s.cfg.sig.length) ∧
      (ok = true → reads.length ≤ s.cfg.nRetry ∧
        ∃ failed, reads = failed ++ [s.cfg.sig] ∧ s.cfg.sig ∉ failed) ∧
      (ok = false → reads.length = s.cfg.nRetry ∧ s.cfg.sig ∉ reads))

/-- R111, R24: where the bytes of the first attempt's read come from: the head of what is queued and
arrives, and the rest stays queued; the signature at the head enters bridge mode at once. That one read
takes all it can of what is there is the model's reading of R111 (log entry 11). -/
def Obligations.SignatureAtHeadEntersBridgeMode : Prop :=
  ∀ (s : State) (q : List Byte), s.session = .idle →
    s.rxq ++ s.env.answer s.cfg (s.ev ++ [.tx s.cfg.opcBridgeReset]) = s.cfg.sig ++ q →
    exec .enterBridgeMode s = .next { s with
      session := .bridgeEntered
      ev := s.ev ++ [.tx s.cfg.opcBridgeReset, .collect s.cfg.sig true]
      rxq := q
      replies := s.replies ++ [.entered] }

/-- R113: `selectBusMode` sends its opcode and drains the banner, whatever it is, an empty one included;
it is refused in every other session state. -/
def Obligations.SelectBusModeDrainsBanner : Prop :=
  ∀ s : State,
    (s.session = .bridgeEntered → exec .selectBusMode s = .next { s with
      session := .busModeSelected
      ev := s.ev ++ [.tx s.cfg.opcSelTwoWire,
        .drain (s.rxq ++ s.env.answer s.cfg (s.ev ++ [.tx s.cfg.opcSelTwoWire]))]
      rxq := [] }) ∧
    (s.session ≠ .bridgeEntered → exec .selectBusMode s = .refused (.wrongSession s.session))

/-- R114: `configurePower` sends one opcode, reads nothing, and moves the session; disabling is valid
whatever the flags are. Elsewhere it is refused. -/
def Obligations.ConfigurePowerSendsOneOpcode : Prop :=
  ∀ s : State,
    (s.session = .busModeSelected → exec .configurePowerOn s = .next { s with
      session := .ready, ev := s.ev ++ [.tx s.cfg.opcPwrOn] }) ∧
    (s.session = .ready → exec .configurePowerOff s = .next { s with
      session := .closed, ev := s.ev ++ [.tx s.cfg.opcPwrOff] }) ∧
    (s.session ≠ .busModeSelected → exec .configurePowerOn s = .refused (.wrongSession s.session)) ∧
    (s.session ≠ .ready → exec .configurePowerOff s = .refused (.wrongSession s.session))

/-- R82, R117: the six bridge-level opcodes that no operation emits have an encoding, each its own parameter,
one bridge-level byte, and no step in any state. -/
def Obligations.UnusedBridgeOpcodesNeverRun : Prop :=
  ∀ (s : State) (i : Instr) (b : Byte),
    (i, b) ∈ [(Instr.selectSpi, s.cfg.opcSelSpi), (.selectUart, s.cfg.opcSelUart),
      (.selectOneWire, s.cfg.opcSelOneWire), (.selectRawWire, s.cfg.opcSelRawWire),
      (.deviceReset, s.cfg.opcDeviceReset), (.selfTest, s.cfg.opcSelfTest)] →
    exec i s = .refused .neverEmitted ∧ i.table = .bridge ∧ encode s.cfg i = [b] ∧
      decodeOne s.cfg .bridge [b] = .ok i

/-- R115, R240: abandoning a session in `BridgeEntered` or `BusModeSelected` closes it without a byte; in every
other session state it is refused. -/
def Obligations.AbandonClosesWithoutTraffic : Prop :=
  ∀ s : State,
    (s.session = .bridgeEntered ∨ s.session = .busModeSelected →
      runCall .abandon s = .next { s with session := .closed }) ∧
    (¬(s.session = .bridgeEntered ∨ s.session = .busModeSelected) →
      runCall .abandon s = .refused (.wrongSession s.session))

/-- R263, R243: bring-up with an immediate signature puts reset-to-bridge, select-two-wire-bus and
power/pullup-enable on the channel and reaches `Ready` with the flags as they were and bus power on.
That the first read takes the whole signature is the model's reading of R111 (log entry 11), and that
power is a function of the session state is its reading of R243 (log entry 16). -/
def Obligations.BringUpReachesReady : Prop :=
  ∀ (s : State) (rest : List Command), s.session = .idle → s.rxq = [] →
    s.env.answer s.cfg (s.ev ++ [.tx s.cfg.opcBridgeReset]) = s.cfg.sig →
    ∃ t, run 3 { s with commands :=
        [.operation .enterBridgeMode, .operation .selectBusMode, .operation .configurePowerOn] ++ rest }
          = .next t ∧
      t.session = .ready ∧ t.busPower = true ∧
      t.tx = s.tx ++ [s.cfg.opcBridgeReset, s.cfg.opcSelTwoWire, s.cfg.opcPwrOn] ∧
      t.phase = s.phase ∧ t.viol = s.viol ∧ t.desync = s.desync ∧ t.rxq = [] ∧
      t.commands = rest

/-! ### Channel actions (42_transactions R150 to R152) -/

/-- R150: `Drain` called by itself takes everything, records it, and cannot fail; outside `Ready`, or
desynchronized, it is refused. -/
def Obligations.DrainEmptiesTheChannel : Prop :=
  ∀ s : State,
    (s.session = .ready → s.desync = false → runCall .drain s = .next { s with
      rxq := [], ev := s.ev ++ [.drain (s.rxq ++ s.env.answer s.cfg s.ev)] }) ∧
    (s.session ≠ .ready ∨ s.desync = true → ∃ r, runCall .drain s = .refused r)

/-- R151, R224: `Collect(n)` takes the first `n` bytes, or takes what there is, desynchronizes the
session and raises `IOTimeout`; no retry. Outside `Ready`, or desynchronized, it is refused. -/
def Obligations.CollectTakesExactlyOrTimesOut : Prop :=
  ∀ (s : State) (n : Nat) (q : List Byte), 1 ≤ n → q = s.rxq ++ s.env.answer s.cfg s.ev →
    (s.session ≠ .ready ∨ s.desync = true → ∃ r, runCall (.collect n) s = .refused r) ∧
    (s.session = .ready → s.desync = false → n ≤ q.length → runCall (.collect n) s = .next { s with
      rxq := q.drop n, ev := s.ev ++ [.collect (q.take n) true]
      replies := s.replies ++ [.collected (q.take n)] }) ∧
    (s.session = .ready → s.desync = false → q.length < n → runCall (.collect n) s = .next { s with
      rxq := [], ev := s.ev ++ [.collect q false], desync := true, phase := .unknown
      replies := s.replies ++ [.raised (.ioTimeout n q.length)] })

/-- R152: `Settle` is recorded and does nothing else; outside `Ready`, or desynchronized, it is refused. -/
def Obligations.SettleOnlyRecords : Prop :=
  ∀ s : State,
    (s.session = .ready → s.desync = false →
      runCall .settle s = .next { s with ev := s.ev ++ [.settle] }) ∧
    (s.session ≠ .ready ∨ s.desync = true → ∃ r, runCall .settle s = .refused r)

/-- R230: no channel action, template or driver (every operation without an opcode but `compare` and the
abandonment) has a step outside `Ready` or while desynchronized, ill-formed operands are refused, and
otherwise it has a step. These are the rows of R230 for such operations only: the primitives and the
session operations are in PrimitiveRefusedUnlessReady and the statements of each. The names of the
reasons and their order are the model's (log entry 9). -/
def Obligations.CallRefusedUnlessReady : Prop :=
  ∀ (s : State) (c : Call), c ≠ .abandon → (∀ e a, c ≠ .compare e a) →
    (s.session ≠ .ready → runCall c s = .refused (.wrongSession s.session)) ∧
    (s.session = .ready → s.desync = true → runCall c s = .refused .desynchronized) ∧
    (s.session = .ready → s.desync = false → c.WellFormed = false →
      runCall c s = .refused .illFormedOperands) ∧
    (s.session = .ready → s.desync = false → c.WellFormed = true → ∃ t, runCall c s = .next t)

/-! ### Templates (42_transactions R154 to R157) -/

/-- R154, R27: `PTRSET` puts its seven bytes on the channel and leaves the transaction open, in the phase and
with the violation flag that the monitor's table gives. -/
def Obligations.PtrsetSendsAddressHighFirst : Prop :=
  ∀ (s : State) (hi lo : Byte), s.session = .ready → s.desync = false →
    runCall (.ptrset hi lo) s = .next { s with
      ev := s.ev ++ [.tx s.cfg.opcStart, .tx s.cfg.opcWrite1, .tx s.cfg.ctrlW, .tx s.cfg.opcWrite1,
        .tx hi, .tx s.cfg.opcWrite1, .tx lo]
      phase := if s.phase.mayStart then .writeSeg else .unknown
      viol := s.viol || !(s.phase.mayStart || decide (s.phase = .unknown)) }

/-- R155, R54: `PAGEWR` of a page sends the whole transaction, with the drain after the address bytes and
the settle at the end, and reports nothing. -/
def Obligations.PageWriteSendsWholeTransaction : Prop :=
  ∀ (s : State) (hi lo : Byte) (d : List Byte), s.session = .ready → s.desync = false →
    1 ≤ d.length → d.length ≤ 128 → lo.toNat + d.length ≤ 256 →
    runCall (.pagewr hi lo d) s = .next { s with
      ev := s.ev ++ (ptrsetBytes s.cfg hi lo).map .tx ++
        [.drain (s.rxq ++ s.env.answer s.cfg (s.ev ++ (ptrsetBytes s.cfg hi lo).map .tx))] ++
        (dataBytes s.cfg d).map .tx ++ [.tx s.cfg.opcStop, .settle]
      rxq := []
      phase := if s.phase.mayStart then .busIdle else .unknown
      viol := s.viol || !(s.phase.mayStart || decide (s.phase = .unknown))
      replies := s.replies ++ [.page true []] }

/-- R55, R155, R222: a page that would cross a row is reported and nothing of it is transmitted. -/
def Obligations.RowCrossingPageIsNotTransmitted : Prop :=
  ∀ (s : State) (hi lo : Byte) (d : List Byte), s.session = .ready → s.desync = false →
    1 ≤ d.length → d.length ≤ 128 → 256 < lo.toNat + d.length →
    runCall (.pagewr hi lo d) s = .next { s with
      replies := s.replies ++ [.page false [.pageBoundaryError none hi lo d.length]] }

/-- R156: `READSEQ(n)` sends `n - 1` READ_ACK and exactly one READ_NACK, then STOP, and reads nothing;
`READSEQ(0)` is refused. -/
def Obligations.ReadSequenceEndsWithOneNack : Prop :=
  ∀ (s : State) (n : Nat), s.session = .ready → s.desync = false →
    (n = 0 → runCall (.readseq n) s = .refused .illFormedOperands) ∧
    (1 ≤ n → (readseqBytes s.cfg n).length = 2 * n + 4 ∧
      runCall (.readseq n) s = .next { s with
        ev := s.ev ++ (readseqBytes s.cfg n).map .tx
        phase := if s.phase.mayStart then .busIdle else .unknown
        viol := s.viol || !(s.phase.mayStart || decide (s.phase = .unknown)) })

/-- R93, R155, R157: a committed `PAGEWR` is its expansion, handed over operation by operation. -/
def Obligations.PageWriteRefinesItsExpansion : Prop :=
  ∀ (s : State) (hi lo : Byte) (d : List Byte) (rest : List Command),
    s.session = .ready → s.desync = false →
    1 ≤ d.length → d.length ≤ 128 → lo.toNat + d.length ≤ 256 →
    ∃ u, run (d.length + 7) { s with commands :=
        [.operation .start, .operation (.write s.cfg.ctrlW), .operation (.write hi),
          .operation (.write lo), .call .drain] ++ d.map (fun b => .operation (.write b)) ++
        [.operation .stop, .call .settle] ++ rest } = .next u ∧
      runCall (.pagewr hi lo d) { s with commands := rest } =
        .next { u with replies := u.replies ++ [.page true []] }

/-! ### The page writer (43_pagewriter) -/

/-- R171, R225: a buffer longer than the device is turned away before any traffic, whatever the start. -/
def Obligations.OversizeBufferAbortsBeforeTraffic : Prop :=
  ∀ (s : State) (data : List Byte) (hi lo : Byte), s.session = .ready → s.desync = false →
    65536 < data.length →
    runCall (.writePages data hi lo) s = .next { s with
      replies := s.replies ++ [.raised (.sourceTooLarge data.length)] }

/-- R172: the next chunk is at least 1 byte, at most a page, at most what is left, and stays in its row. -/
def Obligations.ChunkIsAlwaysAPage : Prop :=
  ∀ left lo : Nat, 1 ≤ left → lo < 256 →
    1 ≤ chunkLength left lo ∧ chunkLength left lo ≤ 128 ∧ chunkLength left lo ≤ left ∧
      lo + chunkLength left lo ≤ 256 ∧
      (chunkLength left lo = 128 ∨ chunkLength left lo = left ∨ lo + chunkLength left lo = 256)

/-- R170, R175, R176, R177 item 4: what `writePages` returns. All of the buffer with no error if it fits
from its start address; otherwise exactly the bytes up to the end of the space and one
`AddressSpaceExhausted`, never a wrap to address 0. -/
def Obligations.WritePagesReturnsBytesCommitted : Prop :=
  ∀ (s : State) (data : List Byte) (hi lo : Byte), s.session = .ready → s.desync = false →
    data.length ≤ 65536 →
    ∃ t, runCall (.writePages data hi lo) s = .next t ∧
      (lin hi lo + data.length ≤ 65536 → t.replies = s.replies ++ [.written data.length []]) ∧
      (65536 < lin hi lo + data.length → ∃ chunks, t.replies = s.replies ++
        [.written (65536 - lin hi lo) [.addressSpaceExhausted chunks (65536 - lin hi lo)
          (data.length - (65536 - lin hi lo))]])

/-- R172, R174, R177 items 1 to 3 and 5, R273: what `writePages` puts on the channel: consecutive page
writes of the lengths the chunking gives, each a whole transaction with its drain and its settle, which
together carry the buffer up to the end of the address space; the first drain discards what was queued
and arrives, every later one what arrives; the chunk index of an exhaustion is their number. -/
def Obligations.WritePagesSendsConsecutivePages : Prop :=
  ∀ (s : State) (data : List Byte) (hi lo : Byte), s.session = .ready → s.desync = false →
    data.length ≤ 65536 →
    ∃ (t : State) (pages : List (Nat × List Byte)) (drained : List (List Byte)),
      runCall (.writePages data hi lo) s = .next t ∧
      drained.length = pages.length ∧
      t.ev = s.ev ++ (pages.zip drained).flatMap (fun x => pageEvents s.cfg x.1.1 x.1.2 x.2) ∧
      pages.flatMap Prod.snd = data.take (65536 - lin hi lo) ∧
      (∀ k, ∀ h : k < pages.length,
        pages[k].1 = lin hi lo + ((pages.take k).map (fun p => p.2.length)).sum ∧
        pages[k].1 < 65536 ∧
        pages[k].2.length = min 128 (min
          (data.length - ((pages.take k).map (fun p => p.2.length)).sum) (256 - pages[k].1 % 256))) ∧
      (∀ k, ∀ h : k < pages.length, ∀ j : k < drained.length,
        drained[k] = (if k = 0 then s.rxq else []) ++ s.env.answer s.cfg
          (s.ev ++ ((pages.zip drained).take k).flatMap (fun x => pageEvents s.cfg x.1.1 x.1.2 x.2) ++
            (ptrsetBytes s.cfg (highByte pages[k].1) (lowByte pages[k].1)).map .tx)) ∧
      (65536 < lin hi lo + data.length → t.replies = s.replies ++
        [.written (65536 - lin hi lo) [.addressSpaceExhausted pages.length (65536 - lin hi lo)
          (data.length - (65536 - lin hi lo))]])

/-- R170, R177 item 6, R275, R20: what `writePages` leaves alone, and the monitor. If it sent anything, the
queue is empty and the monitor is back in `BusIdle` with no new violation wherever a START was legal, in
`BusIdle` and after an empty read (`WriteSeg`) alike; it sends something for every buffer that has bytes
and is no longer than the device. -/
def Obligations.WritePagesKeepsTheSession : Prop :=
  ∀ (s t : State) (data : List Byte) (hi lo : Byte),
    runCall (.writePages data hi lo) s = .next t →
    t.session = s.session ∧ t.desync = s.desync ∧ t.cfg = s.cfg ∧ t.env = s.env ∧
      t.commands = s.commands ∧ (∃ r, t.replies = s.replies ++ [r]) ∧
      (t.ev = s.ev → t.rxq = s.rxq ∧ t.phase = s.phase ∧ t.viol = s.viol) ∧
      (t.ev ≠ s.ev → t.rxq = [] ∧ t.phase = (if s.phase.mayStart then .busIdle else .unknown) ∧
        t.viol = (s.viol || !(s.phase.mayStart || decide (s.phase = .unknown)))) ∧
      (t.ev = s.ev ↔ data = [] ∨ 65536 < data.length)

/-! ### The bulk reader (44_bulkreader) -/

/-- R190 to R194, R197, R198: everything `readBytes` does for `n >= 1`, timeout included: the events, the
buffer byte by byte, what stays queued, and on timeout no buffer, a desynchronized session, and every
byte of the read already sent. -/
def Obligations.ReadBytesCollectsOneBytePerPair : Prop :=
  ∀ (s : State) (hi lo : Byte) (n : Nat) (ev1 ev2 : List Event) (drained q : List Byte),
    s.session = .ready → s.desync = false → 1 ≤ n →
    ev1 = s.ev ++ (ptrsetBytes s.cfg hi lo).map .tx →
    drained = s.rxq ++ s.env.answer s.cfg ev1 →
    ev2 = ev1 ++ [.drain drained] ++ (readseqBytes s.cfg n).map .tx →
    q = s.env.answer s.cfg ev2 →
    (s.cfg.readLead + 2 * n ≤ q.length → ∃ buf : List Byte,
      runCall (.readBytes hi lo n) s = .next { s with
        ev := ev2 ++ [.collect (q.take (s.cfg.readLead + 2 * n)) true]
        rxq := q.drop (s.cfg.readLead + 2 * n)
        phase := if s.phase.mayStart then .busIdle else .unknown
        viol := s.viol || !(s.phase.mayStart || decide (s.phase = .unknown))
        replies := s.replies ++ [.buffer buf] } ∧
      buf.length = n ∧ ∀ i, i < n → buf[i]? = q[s.cfg.readLead + 2 * i]?) ∧
    (q.length < s.cfg.readLead + 2 * n →
      runCall (.readBytes hi lo n) s = .next { s with
        ev := ev2 ++ [.collect q false]
        rxq := []
        desync := true
        phase := .unknown
        viol := s.viol || !(s.phase.mayStart || decide (s.phase = .unknown))
        replies := s.replies ++ [.raised (.ioTimeout (s.cfg.readLead + 2 * n) q.length)] })

/-- R193, R275: a read of length 0 sends the pointer-set and drains, collects nothing, and leaves the
transaction open. -/
def Obligations.EmptyReadLeavesTransactionOpen : Prop :=
  ∀ (s : State) (hi lo : Byte), s.session = .ready → s.desync = false →
    ∃ t, runCall (.readBytes hi lo 0) s = .next t ∧
      t = { s with
        ev := s.ev ++ (ptrsetBytes s.cfg hi lo).map .tx ++
          [.drain (s.rxq ++ s.env.answer s.cfg (s.ev ++ (ptrsetBytes s.cfg hi lo).map .tx))]
        rxq := []
        phase := if s.phase.mayStart then .writeSeg else .unknown
        viol := s.viol || !(s.phase.mayStart || decide (s.phase = .unknown))
        replies := s.replies ++ [.buffer []] } ∧
      t.complete = false

/-- R190, R191: `readBytes` is its four steps handed over one by one: pointer-set, drain, read
sub-transaction, collect; only what is returned differs, the data byte of each pair. -/
def Obligations.ReadBytesRefinesItsSteps : Prop :=
  ∀ (s : State) (hi lo : Byte) (n : Nat) (rest : List Command),
    s.session = .ready → s.desync = false → 1 ≤ n →
    ∃ u v, run 4 { s with commands := [.call (.ptrset hi lo), .call .drain, .call (.readseq n),
          .call (.collect (s.cfg.readLead + 2 * n))] ++ rest } = .next u ∧
      runCall (.readBytes hi lo n) { s with commands := rest } = .next v ∧
      ((∃ bs buf, u.replies = s.replies ++ [.collected bs] ∧
          v = { u with replies := s.replies ++ [.buffer buf] } ∧
          buf.length = n ∧ ∀ i, i < n → buf[i]? = bs[s.cfg.readLead + 2 * i]?) ∨
        (∃ e, u.replies = s.replies ++ [.raised e] ∧ v = u))

/-! ### The verifier (45_verifier) -/

/-- R210: `compare` has a step in every state, touches nothing but what it returns, tests the lengths
first, and otherwise names the first differing index with the two values. -/
def Obligations.CompareFindsFirstMismatch : Prop :=
  ∀ (s : State) (e a : List Byte), ∃ v,
    runCall (.compare e a) s = .next { s with replies := s.replies ++ [.verdict v] } ∧
    (e.length ≠ a.length → v = .failed (.lengthMismatch e.length a.length)) ∧
    (e = a → v = .agree) ∧
    (e.length = a.length → e ≠ a → ∃ i, ∃ h : i < e.length, ∃ k : i < a.length,
      v = .mismatch i e[i] a[i] ∧ e[i] ≠ a[i] ∧ e.take i = a.take i)

/-! ### Whole-machine rules -/

/-- R35: the state at reset. The receive queue is unspecified, so nothing is said of it; the parameters,
the environment and the two lists are the model's choice (log entries 1 to 7), and bus power is computed
from the session (log entry 16). -/
def Obligations.ResetStateIsANewSession : Prop :=
  State.reset.session = .idle ∧ State.reset.ev = [] ∧ State.reset.tx = [] ∧
  State.reset.desync = false ∧ State.reset.phase = .busIdle ∧ State.reset.viol = false ∧
  State.reset.busPower = false

/-- R25, R27, R35: the flags agree at reset. -/
def Obligations.FlagsAgreeAtReset : Prop := State.reset.FlagsAgree

/-- R25, R27, R35: every step, from any state in which the flags agree, keeps them so: the monitor is in
`Unknown` exactly when a violation or a desynchronization was recorded, and before `Ready` neither has
happened and no transaction has begun. -/
def Obligations.EveryStepKeepsFlagsAgreed : Prop :=
  ∀ s t : State, s.FlagsAgree → step s = .next t → t.FlagsAgree

/-- R22: the session moves only along the transitions the rule lists. -/
def Obligations.SessionMovesOnlyAlongItsOrder : Prop :=
  ∀ s t : State, step s = .next t → s.session.mayMove t.session = true

/-- R23, R25, R26, R20: the history only grows, the two sticky flags stay set, and no step writes the
parameters or the environment or takes back a reply. -/
def Obligations.HistoryAndStickyFlagsOnlyGrow : Prop :=
  ∀ s t : State, step s = .next t →
    s.ev <+: t.ev ∧ (s.desync = true → t.desync = true) ∧ (s.viol = true → t.viol = true) ∧
      t.cfg = s.cfg ∧ t.env = s.env ∧ s.replies <+: t.replies ∧ t.commands = s.commands.tail

/-- R24: bytes leave the receive queue only from its head and only into the events that read them, and arrive
only at its tail: on every step, what the new events took followed by the new queue is the old queue
followed by what arrived at those reads, or by the next command. What arrives, and when it is seen, is
the environment's and the model's account of it (log entry 6). -/
def Obligations.QueueLosesOnlyWhatReadsTake : Prop :=
  ∀ s t : State, step s = .next t → ∃ es, t.ev = s.ev ++ es ∧
    takenBytes es ++ t.rxq = s.rxq ++ answeredBytes s.cfg s.env s.ev es ++ s.arrivingNext

/-- R82, R117, R130, R233: a step adds to the transmit stream a whole number of operations, and only
operations that may be emitted in the session state it starts from; the six unused opcodes never. -/
def Obligations.StreamAlwaysEndsOnAWholeOperation : Prop :=
  ∀ s t : State, step s = .next t →
    ∃ is : List Instr, t.tx = s.tx ++ encodeAll s.cfg is ∧ ∀ i ∈ is, s.session.mayEmit i = true

/-- R61 (b), P1: past mode entry nothing the machine emits depends on anything it receives: two states
that agree on session, desynchronization, parameters and next command, and on nothing else, take a step
together and emit the same bytes. -/
def Obligations.EmissionIgnoresReception : Prop :=
  ∀ s1 s2 t1 : State, s1.session = s2.session → s1.session ≠ .idle → s1.desync = s2.desync →
    s1.cfg = s2.cfg → s1.commands = s2.commands → step s1 = .next t1 →
    ∃ t2 bs, step s2 = .next t2 ∧ t1.tx = s1.tx ++ bs ∧ t2.tx = s2.tx ++ bs

/-- R116: in `Closed` nothing reaches the channel and the session stays closed; only the verifier's result
and what the environment delivers can change anything. -/
def Obligations.ClosedIsTerminal : Prop :=
  ∀ s t : State, s.session = .closed → step s = .next t →
    ∃ rs bs, t = { s with
      commands := s.commands.tail, replies := s.replies ++ rs, rxq := s.rxq ++ bs }

/-- R224, R230, U6: after a timeout, of the operations that touch the session only configurePower(false)
has a step. -/
def Obligations.DesynchronizedSessionCanOnlyClose : Prop :=
  ∀ s t : State, s.session = .ready → s.desync = true → step s = .next t →
    t = { s with
      session := .closed, ev := s.ev ++ [.tx s.cfg.opcPwrOff], commands := s.commands.tail } ∨
    ∃ rs bs, t = { s with
      commands := s.commands.tail, replies := s.replies ++ rs, rxq := s.rxq ++ bs }

/-- R25, R151, R176: a step sets `S.DESYNC` only by a collect that fell short, whose `IOTimeout` is the
step's only reply. -/
def Obligations.OnlyATimeoutDesynchronizes : Prop :=
  ∀ s t : State, step s = .next t → s.desync = false → t.desync = true →
    ∃ bs expected, bs.length < expected ∧ (∃ es, t.ev = s.ev ++ es ++ [.collect bs false]) ∧
      t.rxq = [] ∧ t.phase = .unknown ∧
      t.replies = s.replies ++ [.raised (.ioTimeout expected bs.length)]

/-- R273: every STOP of a page write is followed at once by the settle: whatever a page write or a page writer
adds to the history is a sequence of whole page transactions, each ending in its STOP and its settle. -/
def Obligations.PageWritesEndSettled : Prop :=
  ∀ (s t : State) (hi lo : Byte) (d : List Byte),
    (runCall (.pagewr hi lo d) s = .next t ∨ runCall (.writePages d hi lo) s = .next t) →
    ∃ pages : List (Nat × List Byte × List Byte),
      t.ev = s.ev ++ pages.flatMap (fun p => pageEvents s.cfg p.1 p.2.1 p.2.2)

/-- R274, R283: closing a session with a transaction open is not a final run; closing it with none open
is. The reading of the two rules together is the model's (log entry 15). -/
def Obligations.ClosingAnOpenTransactionIsNotFinal : Prop :=
  ∀ s t : State, s.session = .ready → s.commands = [.operation .configurePowerOff] →
    step s = .next t → (t.isFinal = true ↔ s.isOpen = false)

/-- R262: a session opened again is a new state at the reset values, with what the environment holds carried
over. That the parameters carry over too is the model's choice (log entry 1), and device memory is the
reference environment's (log entry 14); it stays as it was unless a transaction was open. -/
def Obligations.ReestablishedSessionIsNew : Prop :=
  ∀ (s : State) (rx : List Byte),
    (s.reestablish rx).session = .idle ∧ (s.reestablish rx).ev = [] ∧
    (s.reestablish rx).rxq = rx ∧ (s.reestablish rx).desync = false ∧
    (s.reestablish rx).phase = .busIdle ∧ (s.reestablish rx).viol = false ∧
    (s.reestablish rx).cfg = s.cfg ∧
    (s.isOpen = false → s.deviceInFlight = false →
      (s.reestablish rx).deviceMemory = s.deviceMemory)

/-! ### The reference environment (95_test_vectors section 4; PRESUMED, log entry 14) -/

/-- The device memory of the reference environment stays in canonical form along every step. -/
def Obligations.DeviceMemoryStaysCanonical : Prop :=
  ∀ s t : State, s.env.DeviceWf → step s = .next t →
    Memory.wf s.deviceMemory ∧ Memory.wf t.deviceMemory

/-- What one byte of device memory reads as after a write, for every memory in canonical form: the
written byte at its address, as before everywhere else. -/
def Obligations.DeviceMemoryReadAfterWrite : Prop :=
  ∀ (m : List Cell) (a x : Nat) (b : Byte), Memory.wf m →
    Memory.read (Memory.write m a b) x = if x = a then b else Memory.read m x

/-- R58, R274, U1 against the reference environment: when a session is closed, or opened again, with a
transaction in flight, nothing is claimed of the rows that transaction addressed or wrote, and every
byte of every other row reads as before; closed with none in flight, all of device memory stays. Which
rows those are is the model's reading (log entries 14 and 20). -/
def Obligations.AbortLeavesOtherRowsAlone : Prop :=
  ∀ (s : State) (r : Reference) (rx : List Byte), s.env = .reference r →
    (r.replay s.cfg s.ev).expectPayload = false →
    (∀ a, a < 65536 → highByte a ∉ s.rowsInFlight →
      Memory.read (s.reestablish rx).deviceMemory a = Memory.read s.deviceMemory a) ∧
    (s.session = .ready → ∃ t, exec .configurePowerOff s = .next t ∧
      (s.deviceInFlight = false → t.deviceMemory = s.deviceMemory) ∧
      ∀ a, a < 65536 → highByte a ∉ s.rowsInFlight →
        Memory.read t.deviceMemory a = Memory.read s.deviceMemory a)

/-- R213 against the reference environment, from any start address the buffer fits from: what
`writePages` wrote, `readBytes` returns. It rests on the fixture, and on `READ_LEAD = 3`, which that
fixture needs (log entries 4 and 14). -/
def Obligations.WrittenBufferReadsBack : Prop :=
  ∀ (s : State) (data : List Byte) (hi lo : Byte), s.session = .ready → s.desync = false →
    s.cfg.readLead = 3 → s.deviceListening → s.env.DeviceWf →
    0 < data.length → lin hi lo + data.length ≤ 65536 →
    ∃ t u, runCall (.writePages data hi lo) s = .next t ∧
      runCall (.readBytes hi lo data.length) t = .next u ∧
      u.replies = s.replies ++ [.written data.length [], .buffer data] ∧ u.desync = false
end

