-- ==== Sys2Proof/Laws/State.lean ====
section
/-! SUPPORT. Laws/State.lean: what each update of the state does to each field, one lemma per field per
update, so that no later proof unfolds a record update. -/

namespace Sys2Proof.Machine

/-! ### record -/

@[simp] theorem State.record_session (e : Event) (s : State) : (s.record e).session = s.session := rfl
@[simp] theorem State.record_ev (e : Event) (s : State) : (s.record e).ev = s.ev ++ [e] := rfl
@[simp] theorem State.record_rxq (e : Event) (s : State) : (s.record e).rxq = s.rxq := rfl
@[simp] theorem State.record_desync (e : Event) (s : State) : (s.record e).desync = s.desync := rfl
@[simp] theorem State.record_phase (e : Event) (s : State) : (s.record e).phase = s.phase := rfl
@[simp] theorem State.record_viol (e : Event) (s : State) : (s.record e).viol = s.viol := rfl
@[simp] theorem State.record_cfg (e : Event) (s : State) : (s.record e).cfg = s.cfg := rfl
@[simp] theorem State.record_env (e : Event) (s : State) : (s.record e).env = s.env := rfl
@[simp] theorem State.record_commands (e : Event) (s : State) : (s.record e).commands = s.commands := rfl
@[simp] theorem State.record_replies (e : Event) (s : State) : (s.record e).replies = s.replies := rfl

/-! ### emit -/

@[simp] theorem State.emit_session (b : Byte) (s : State) : (s.emit b).session = s.session := rfl
@[simp] theorem State.emit_ev (b : Byte) (s : State) : (s.emit b).ev = s.ev ++ [.tx b] := rfl
@[simp] theorem State.emit_rxq (b : Byte) (s : State) : (s.emit b).rxq = s.rxq := rfl
@[simp] theorem State.emit_desync (b : Byte) (s : State) : (s.emit b).desync = s.desync := rfl
@[simp] theorem State.emit_phase (b : Byte) (s : State) : (s.emit b).phase = s.phase := rfl
@[simp] theorem State.emit_viol (b : Byte) (s : State) : (s.emit b).viol = s.viol := rfl
@[simp] theorem State.emit_cfg (b : Byte) (s : State) : (s.emit b).cfg = s.cfg := rfl
@[simp] theorem State.emit_env (b : Byte) (s : State) : (s.emit b).env = s.env := rfl
@[simp] theorem State.emit_commands (b : Byte) (s : State) : (s.emit b).commands = s.commands := rfl
@[simp] theorem State.emit_replies (b : Byte) (s : State) : (s.emit b).replies = s.replies := rfl

/-! ### drain -/

@[simp] theorem State.drain_session (s : State) : (s.drain).session = s.session := rfl
@[simp] theorem State.drain_ev (s : State) : (s.drain).ev = s.ev ++ [.drain s.incoming] := rfl
@[simp] theorem State.drain_rxq (s : State) : (s.drain).rxq = [] := rfl
@[simp] theorem State.drain_desync (s : State) : (s.drain).desync = s.desync := rfl
@[simp] theorem State.drain_phase (s : State) : (s.drain).phase = s.phase := rfl
@[simp] theorem State.drain_viol (s : State) : (s.drain).viol = s.viol := rfl
@[simp] theorem State.drain_cfg (s : State) : (s.drain).cfg = s.cfg := rfl
@[simp] theorem State.drain_env (s : State) : (s.drain).env = s.env := rfl
@[simp] theorem State.drain_commands (s : State) : (s.drain).commands = s.commands := rfl
@[simp] theorem State.drain_replies (s : State) : (s.drain).replies = s.replies := rfl

/-! ### settle -/

@[simp] theorem State.settle_session (s : State) : (s.settle).session = s.session := rfl
@[simp] theorem State.settle_ev (s : State) : (s.settle).ev = s.ev ++ [.settle] := rfl
@[simp] theorem State.settle_rxq (s : State) : (s.settle).rxq = s.rxq := rfl
@[simp] theorem State.settle_desync (s : State) : (s.settle).desync = s.desync := rfl
@[simp] theorem State.settle_phase (s : State) : (s.settle).phase = s.phase := rfl
@[simp] theorem State.settle_viol (s : State) : (s.settle).viol = s.viol := rfl
@[simp] theorem State.settle_cfg (s : State) : (s.settle).cfg = s.cfg := rfl
@[simp] theorem State.settle_env (s : State) : (s.settle).env = s.env := rfl
@[simp] theorem State.settle_commands (s : State) : (s.settle).commands = s.commands := rfl
@[simp] theorem State.settle_replies (s : State) : (s.settle).replies = s.replies := rfl

/-! ### desynchronize -/

@[simp] theorem State.desynchronize_session (s : State) : (s.desynchronize).session = s.session := rfl
@[simp] theorem State.desynchronize_ev (s : State) : (s.desynchronize).ev = s.ev := rfl
@[simp] theorem State.desynchronize_rxq (s : State) : (s.desynchronize).rxq = s.rxq := rfl
@[simp] theorem State.desynchronize_desync (s : State) : (s.desynchronize).desync = true := rfl
@[simp] theorem State.desynchronize_phase (s : State) : (s.desynchronize).phase = .unknown := rfl
@[simp] theorem State.desynchronize_viol (s : State) : (s.desynchronize).viol = s.viol := rfl
@[simp] theorem State.desynchronize_cfg (s : State) : (s.desynchronize).cfg = s.cfg := rfl
@[simp] theorem State.desynchronize_env (s : State) : (s.desynchronize).env = s.env := rfl
@[simp] theorem State.desynchronize_commands (s : State) : (s.desynchronize).commands = s.commands := rfl
@[simp] theorem State.desynchronize_replies (s : State) : (s.desynchronize).replies = s.replies := rfl

/-! ### arrive -/

@[simp] theorem State.arrive_session (bs : List Byte) (s : State) : (s.arrive bs).session = s.session := rfl
@[simp] theorem State.arrive_ev (bs : List Byte) (s : State) : (s.arrive bs).ev = s.ev := rfl
@[simp] theorem State.arrive_rxq (bs : List Byte) (s : State) : (s.arrive bs).rxq = s.rxq ++ bs := rfl
@[simp] theorem State.arrive_desync (bs : List Byte) (s : State) : (s.arrive bs).desync = s.desync := rfl
@[simp] theorem State.arrive_phase (bs : List Byte) (s : State) : (s.arrive bs).phase = s.phase := rfl
@[simp] theorem State.arrive_viol (bs : List Byte) (s : State) : (s.arrive bs).viol = s.viol := rfl
@[simp] theorem State.arrive_cfg (bs : List Byte) (s : State) : (s.arrive bs).cfg = s.cfg := rfl
@[simp] theorem State.arrive_env (bs : List Byte) (s : State) : (s.arrive bs).env = s.env := rfl
@[simp] theorem State.arrive_commands (bs : List Byte) (s : State) : (s.arrive bs).commands = s.commands := rfl
@[simp] theorem State.arrive_replies (bs : List Byte) (s : State) : (s.arrive bs).replies = s.replies := rfl

/-! ### answer -/

@[simp] theorem State.answer_session (r : Reply) (s : State) : (s.answer r).session = s.session := rfl
@[simp] theorem State.answer_ev (r : Reply) (s : State) : (s.answer r).ev = s.ev := rfl
@[simp] theorem State.answer_rxq (r : Reply) (s : State) : (s.answer r).rxq = s.rxq := rfl
@[simp] theorem State.answer_desync (r : Reply) (s : State) : (s.answer r).desync = s.desync := rfl
@[simp] theorem State.answer_phase (r : Reply) (s : State) : (s.answer r).phase = s.phase := rfl
@[simp] theorem State.answer_viol (r : Reply) (s : State) : (s.answer r).viol = s.viol := rfl
@[simp] theorem State.answer_cfg (r : Reply) (s : State) : (s.answer r).cfg = s.cfg := rfl
@[simp] theorem State.answer_env (r : Reply) (s : State) : (s.answer r).env = s.env := rfl
@[simp] theorem State.answer_commands (r : Reply) (s : State) : (s.answer r).commands = s.commands := rfl
@[simp] theorem State.answer_replies (r : Reply) (s : State) : (s.answer r).replies = s.replies ++ [r] := rfl

/-! ### raise -/

@[simp] theorem State.raise_session (e : Err) (s : State) : (s.raise e).session = s.session := rfl
@[simp] theorem State.raise_ev (e : Err) (s : State) : (s.raise e).ev = s.ev := rfl
@[simp] theorem State.raise_rxq (e : Err) (s : State) : (s.raise e).rxq = s.rxq := rfl
@[simp] theorem State.raise_desync (e : Err) (s : State) : (s.raise e).desync = s.desync := rfl
@[simp] theorem State.raise_phase (e : Err) (s : State) : (s.raise e).phase = s.phase := rfl
@[simp] theorem State.raise_viol (e : Err) (s : State) : (s.raise e).viol = s.viol := rfl
@[simp] theorem State.raise_cfg (e : Err) (s : State) : (s.raise e).cfg = s.cfg := rfl
@[simp] theorem State.raise_env (e : Err) (s : State) : (s.raise e).env = s.env := rfl
@[simp] theorem State.raise_commands (e : Err) (s : State) : (s.raise e).commands = s.commands := rfl
@[simp] theorem State.raise_replies (e : Err) (s : State) : (s.raise e).replies = s.replies ++ [.raised e] := rfl

/-! ### goTo -/

@[simp] theorem State.goTo_session (x : Session) (s : State) : (s.goTo x).session = x := rfl
@[simp] theorem State.goTo_ev (x : Session) (s : State) : (s.goTo x).ev = s.ev := rfl
@[simp] theorem State.goTo_rxq (x : Session) (s : State) : (s.goTo x).rxq = s.rxq := rfl
@[simp] theorem State.goTo_desync (x : Session) (s : State) : (s.goTo x).desync = s.desync := rfl
@[simp] theorem State.goTo_phase (x : Session) (s : State) : (s.goTo x).phase = s.phase := rfl
@[simp] theorem State.goTo_viol (x : Session) (s : State) : (s.goTo x).viol = s.viol := rfl
@[simp] theorem State.goTo_cfg (x : Session) (s : State) : (s.goTo x).cfg = s.cfg := rfl
@[simp] theorem State.goTo_env (x : Session) (s : State) : (s.goTo x).env = s.env := rfl
@[simp] theorem State.goTo_commands (x : Session) (s : State) : (s.goTo x).commands = s.commands := rfl
@[simp] theorem State.goTo_replies (x : Session) (s : State) : (s.goTo x).replies = s.replies := rfl

/-! ### pop -/

@[simp] theorem State.pop_session (s : State) : (s.pop).session = s.session := rfl
@[simp] theorem State.pop_ev (s : State) : (s.pop).ev = s.ev := rfl
@[simp] theorem State.pop_rxq (s : State) : (s.pop).rxq = s.rxq := rfl
@[simp] theorem State.pop_desync (s : State) : (s.pop).desync = s.desync := rfl
@[simp] theorem State.pop_phase (s : State) : (s.pop).phase = s.phase := rfl
@[simp] theorem State.pop_viol (s : State) : (s.pop).viol = s.viol := rfl
@[simp] theorem State.pop_cfg (s : State) : (s.pop).cfg = s.cfg := rfl
@[simp] theorem State.pop_env (s : State) : (s.pop).env = s.env := rfl
@[simp] theorem State.pop_commands (s : State) : (s.pop).commands = s.commands.tail := rfl
@[simp] theorem State.pop_replies (s : State) : (s.pop).replies = s.replies := rfl

/-! ### push -/

@[simp] theorem State.push_session (c : Command) (s : State) : (s.push c).session = s.session := rfl
@[simp] theorem State.push_ev (c : Command) (s : State) : (s.push c).ev = s.ev := rfl
@[simp] theorem State.push_rxq (c : Command) (s : State) : (s.push c).rxq = s.rxq := rfl
@[simp] theorem State.push_desync (c : Command) (s : State) : (s.push c).desync = s.desync := rfl
@[simp] theorem State.push_phase (c : Command) (s : State) : (s.push c).phase = s.phase := rfl
@[simp] theorem State.push_viol (c : Command) (s : State) : (s.push c).viol = s.viol := rfl
@[simp] theorem State.push_cfg (c : Command) (s : State) : (s.push c).cfg = s.cfg := rfl
@[simp] theorem State.push_env (c : Command) (s : State) : (s.push c).env = s.env := rfl
@[simp] theorem State.push_commands (c : Command) (s : State) : (s.push c).commands = c :: s.commands := rfl
@[simp] theorem State.push_replies (c : Command) (s : State) : (s.push c).replies = s.replies := rfl

/-! ### readSignature -/

@[simp] theorem State.readSignature_session (s : State) : (s.readSignature.1).session = s.session := rfl
@[simp] theorem State.readSignature_ev (s : State) : (s.readSignature.1).ev = s.ev ++ [.collect s.readSignature.2 (decide (s.readSignature.2.length = s.cfg.sig.length))] := rfl
@[simp] theorem State.readSignature_rxq (s : State) : (s.readSignature.1).rxq = s.incoming.drop s.cfg.sig.length := rfl
@[simp] theorem State.readSignature_desync (s : State) : (s.readSignature.1).desync = s.desync := rfl
@[simp] theorem State.readSignature_phase (s : State) : (s.readSignature.1).phase = s.phase := rfl
@[simp] theorem State.readSignature_viol (s : State) : (s.readSignature.1).viol = s.viol := rfl
@[simp] theorem State.readSignature_cfg (s : State) : (s.readSignature.1).cfg = s.cfg := rfl
@[simp] theorem State.readSignature_env (s : State) : (s.readSignature.1).env = s.env := rfl
@[simp] theorem State.readSignature_commands (s : State) : (s.readSignature.1).commands = s.commands := rfl
@[simp] theorem State.readSignature_replies (s : State) : (s.readSignature.1).replies = s.replies := rfl

/-! ### monitor: only the ghost fields change (10_state R26) -/

@[simp] theorem State.monitor_session (p : Prim) (s : State) : (s.monitor p).session = s.session := by
  unfold State.monitor; split <;> rfl
@[simp] theorem State.monitor_ev (p : Prim) (s : State) : (s.monitor p).ev = s.ev := by
  unfold State.monitor; split <;> rfl
@[simp] theorem State.monitor_rxq (p : Prim) (s : State) : (s.monitor p).rxq = s.rxq := by
  unfold State.monitor; split <;> rfl
@[simp] theorem State.monitor_desync (p : Prim) (s : State) : (s.monitor p).desync = s.desync := by
  unfold State.monitor; split <;> rfl
@[simp] theorem State.monitor_cfg (p : Prim) (s : State) : (s.monitor p).cfg = s.cfg := by
  unfold State.monitor; split <;> rfl
@[simp] theorem State.monitor_env (p : Prim) (s : State) : (s.monitor p).env = s.env := by
  unfold State.monitor; split <;> rfl
@[simp] theorem State.monitor_commands (p : Prim) (s : State) : (s.monitor p).commands = s.commands := by
  unfold State.monitor; split <;> rfl
@[simp] theorem State.monitor_replies (p : Prim) (s : State) : (s.monitor p).replies = s.replies := by
  unfold State.monitor; split <;> rfl

/-- The monitor's next phase: a `V` cell goes to `Unknown` (R27). -/
@[simp] theorem State.monitor_phase (p : Prim) (s : State) :
    (s.monitor p).phase = (monitorNext s.cfg s.phase p).getD .unknown := by
  unfold State.monitor; split <;> simp_all

/-- The monitor sets the violation flag at a `V` cell and never clears it (R27). -/
@[simp] theorem State.monitor_viol (p : Prim) (s : State) :
    (s.monitor p).viol = (s.viol || (monitorNext s.cfg s.phase p).isNone) := by
  unfold State.monitor; split <;> simp_all

/-- Two states are equal when their fields are. -/
theorem State.eq_of_fields {s t : State} (h1 : s.session = t.session) (h2 : s.ev = t.ev)
    (h3 : s.rxq = t.rxq) (h4 : s.desync = t.desync) (h5 : s.phase = t.phase) (h6 : s.viol = t.viol)
    (h7 : s.cfg = t.cfg) (h8 : s.env = t.env) (h9 : s.commands = t.commands)
    (h10 : s.replies = t.replies) : s = t := by
  cases s; cases t; simp_all

end Sys2Proof.Machine
end

