-- ==== Sys2Proof/Laws/Channel.lean ====
section
/-! SUPPORT. Laws/Channel.lean: what the shared operations over the channel do: the transmit stream, the step of
a primitive, a template's expansion, the reads, and when an operation has a step. -/

namespace Sys2Proof.Machine

/-! ### The transmit stream (10_state R23) -/

@[simp] theorem sentByte_tx (b : Byte) : sentByte (.tx b) = some b := rfl
@[simp] theorem sentByte_drain (bs : List Byte) : sentByte (.drain bs) = none := rfl
@[simp] theorem sentByte_collect (bs : List Byte) (ok : Bool) : sentByte (.collect bs ok) = none := rfl
@[simp] theorem sentByte_settle : sentByte .settle = none := rfl

/-- The bytes an event list transmitted. -/
def sentBytes (es : List Event) : List Byte := es.filterMap sentByte

@[simp] theorem sentBytes_nil : sentBytes [] = [] := rfl

@[simp] theorem sentBytes_append (es fs : List Event) :
    sentBytes (es ++ fs) = sentBytes es ++ sentBytes fs := by
  simp [sentBytes]

@[simp] theorem sentBytes_tx (b : Byte) (es : List Event) :
    sentBytes (.tx b :: es) = b :: sentBytes es := by simp [sentBytes]

@[simp] theorem sentBytes_drain (bs : List Byte) (es : List Event) :
    sentBytes (.drain bs :: es) = sentBytes es := rfl

@[simp] theorem sentBytes_collect (bs : List Byte) (ok : Bool) (es : List Event) :
    sentBytes (.collect bs ok :: es) = sentBytes es := rfl

@[simp] theorem sentBytes_settle (es : List Event) :
    sentBytes (.settle :: es) = sentBytes es := rfl

@[simp] theorem sentBytes_map_tx (bs : List Byte) : sentBytes (bs.map .tx) = bs := by
  induction bs with
  | nil => rfl
  | cons b bs ih => simp [ih]

/-- The transmit stream is a function of the event history alone. -/
theorem State.tx_eq (s : State) : s.tx = sentBytes s.ev := rfl

/-- An update that appends events appends what they transmitted. -/
theorem State.tx_of_ev {s t : State} {es : List Event} (h : t.ev = s.ev ++ es) :
    t.tx = s.tx ++ sentBytes es := by
  simp [State.tx_eq, h]

/-! ### Updates that leave all but the history, the queue and the ghost fields alone -/

/-- What the channel actions and the primitives leave alone: session, desynchronization, parameters,
environment, what is to be handed over and what was returned. -/
structure State.SameFrame (s t : State) : Prop where
  session : t.session = s.session
  desync : t.desync = s.desync
  cfg : t.cfg = s.cfg
  env : t.env = s.env
  commands : t.commands = s.commands
  replies : t.replies = s.replies

theorem State.SameFrame.refl (s : State) : s.SameFrame s := ⟨rfl, rfl, rfl, rfl, rfl, rfl⟩

theorem State.SameFrame.trans {s t u : State} (h : s.SameFrame t) (k : t.SameFrame u) :
    s.SameFrame u :=
  ⟨k.session.trans h.session, k.desync.trans h.desync, k.cfg.trans h.cfg, k.env.trans h.env,
    k.commands.trans h.commands, k.replies.trans h.replies⟩

/-! ### emitAll -/

/-- Bytes written one after the other are the history's next events, and nothing else changes (R130). -/
theorem State.emitAll_eq (bs : List Byte) (s : State) :
    s.emitAll bs = { s with ev := s.ev ++ bs.map .tx } := by
  induction bs generalizing s with
  | nil => simp [State.emitAll]
  | cons b bs ih =>
    have h : s.emitAll (b :: bs) = (s.emit b).emitAll bs := rfl
    rw [h, ih]
    simp [State.emit, State.record]

@[simp] theorem State.emitAll_ev (bs : List Byte) (s : State) :
    (s.emitAll bs).ev = s.ev ++ bs.map .tx := by rw [State.emitAll_eq]
@[simp] theorem State.emitAll_session (bs : List Byte) (s : State) :
    (s.emitAll bs).session = s.session := by rw [State.emitAll_eq]
@[simp] theorem State.emitAll_rxq (bs : List Byte) (s : State) :
    (s.emitAll bs).rxq = s.rxq := by rw [State.emitAll_eq]
@[simp] theorem State.emitAll_desync (bs : List Byte) (s : State) :
    (s.emitAll bs).desync = s.desync := by rw [State.emitAll_eq]
@[simp] theorem State.emitAll_phase (bs : List Byte) (s : State) :
    (s.emitAll bs).phase = s.phase := by rw [State.emitAll_eq]
@[simp] theorem State.emitAll_viol (bs : List Byte) (s : State) :
    (s.emitAll bs).viol = s.viol := by rw [State.emitAll_eq]
@[simp] theorem State.emitAll_cfg (bs : List Byte) (s : State) :
    (s.emitAll bs).cfg = s.cfg := by rw [State.emitAll_eq]
@[simp] theorem State.emitAll_env (bs : List Byte) (s : State) :
    (s.emitAll bs).env = s.env := by rw [State.emitAll_eq]
@[simp] theorem State.emitAll_commands (bs : List Byte) (s : State) :
    (s.emitAll bs).commands = s.commands := by rw [State.emitAll_eq]
@[simp] theorem State.emitAll_replies (bs : List Byte) (s : State) :
    (s.emitAll bs).replies = s.replies := by rw [State.emitAll_eq]

/-! ### issue: the step of a primitive where it has one (R130) -/

@[simp] theorem State.issue_ev (p : Prim) (s : State) :
    (s.issue p).ev = s.ev ++ (encode s.cfg p.toInstr).map .tx := by simp [State.issue]
@[simp] theorem State.issue_rxq (p : Prim) (s : State) : (s.issue p).rxq = s.rxq := by
  simp [State.issue]
@[simp] theorem State.issue_session (p : Prim) (s : State) : (s.issue p).session = s.session := by
  simp [State.issue]
@[simp] theorem State.issue_desync (p : Prim) (s : State) : (s.issue p).desync = s.desync := by
  simp [State.issue]
@[simp] theorem State.issue_cfg (p : Prim) (s : State) : (s.issue p).cfg = s.cfg := by
  simp [State.issue]
@[simp] theorem State.issue_env (p : Prim) (s : State) : (s.issue p).env = s.env := by
  simp [State.issue]
@[simp] theorem State.issue_commands (p : Prim) (s : State) : (s.issue p).commands = s.commands := by
  simp [State.issue]
@[simp] theorem State.issue_replies (p : Prim) (s : State) : (s.issue p).replies = s.replies := by
  simp [State.issue]
@[simp] theorem State.issue_phase (p : Prim) (s : State) :
    (s.issue p).phase = (monitorNext s.cfg s.phase p).getD .unknown := by simp [State.issue]
@[simp] theorem State.issue_viol (p : Prim) (s : State) :
    (s.issue p).viol = (s.viol || (monitorNext s.cfg s.phase p).isNone) := by simp [State.issue]

theorem State.issue_sameFrame (p : Prim) (s : State) : s.SameFrame (s.issue p) :=
  ⟨by simp, by simp, by simp, by simp, by simp, by simp⟩

theorem State.issue_tx (p : Prim) (s : State) :
    (s.issue p).tx = s.tx ++ encode s.cfg p.toInstr := by
  rw [State.tx_of_ev (s.issue_ev p)]; simp

/-! ### perform and performAll: a template's expansion (42_transactions R157) -/

theorem State.perform_sameFrame (a : Action) (s : State) : s.SameFrame (s.perform a) := by
  cases a with
  | prim p => exact s.issue_sameFrame p
  | drain => exact ⟨rfl, rfl, rfl, rfl, rfl, rfl⟩
  | settle => exact ⟨rfl, rfl, rfl, rfl, rfl, rfl⟩

@[simp] theorem State.performAll_nil (s : State) : s.performAll [] = s := rfl

@[simp] theorem State.performAll_cons (a : Action) (as : List Action) (s : State) :
    s.performAll (a :: as) = (s.perform a).performAll as := rfl

theorem State.performAll_append (as bs : List Action) (s : State) :
    s.performAll (as ++ bs) = (s.performAll as).performAll bs := by
  simp [State.performAll, List.foldl_append]

theorem State.performAll_sameFrame (as : List Action) (s : State) :
    s.SameFrame (s.performAll as) := by
  induction as generalizing s with
  | nil => exact State.SameFrame.refl s
  | cons a as ih => exact (s.perform_sameFrame a).trans (ih _)

/-- The bytes of a template's primitives. -/
def actionBytes (c : Config) : Action → List Byte
  | .prim p => encode c p.toInstr
  | .drain => []
  | .settle => []

theorem State.perform_tx (a : Action) (s : State) :
    (s.perform a).tx = s.tx ++ actionBytes s.cfg a := by
  cases a with
  | prim p => exact s.issue_tx p
  | drain => simp [State.perform, actionBytes, State.tx_eq]
  | settle => simp [State.perform, actionBytes, State.tx_eq]

/-- A template transmits exactly the bytes of its primitives, in order. -/
theorem State.performAll_tx (as : List Action) (s : State) :
    (s.performAll as).tx = s.tx ++ as.flatMap (actionBytes s.cfg) := by
  induction as generalizing s with
  | nil => simp
  | cons a as ih =>
    rw [State.performAll_cons, ih, State.perform_tx, (s.perform_sameFrame a).cfg]
    simp

/-- The history only grows along a template. -/
theorem State.performAll_ev_prefix (as : List Action) (s : State) :
    s.ev <+: (s.performAll as).ev := by
  induction as generalizing s with
  | nil => exact List.prefix_rfl
  | cons a as ih =>
    refine List.IsPrefix.trans ?_ (ih _)
    cases a with
    | prim p =>
      show s.ev <+: (s.issue p).ev
      rw [State.issue_ev]
      exact List.prefix_append _ _
    | drain => exact List.prefix_append _ _
    | settle => exact List.prefix_append _ _

/-! ### The reads -/

/-- Everything `Collect` can do (42_transactions R151). -/
theorem State.collect_cases (n : Nat) (s : State) :
    (n ≤ s.incoming.length ∧
      s.collect n = ({ s with rxq := s.incoming.drop n, ev := s.ev ++ [.collect (s.incoming.take n) true] },
        .ok (s.incoming.take n))) ∨
    (s.incoming.length < n ∧
      s.collect n = ({ s with rxq := [], ev := s.ev ++ [.collect s.incoming false], desync := true, phase := .unknown },
        .error (.ioTimeout n s.incoming.length))) := by
  by_cases h : n ≤ s.incoming.length
  · exact Or.inl ⟨h, by simp [State.collect, h]⟩
  · exact Or.inr ⟨by omega, by simp [State.collect, h, State.desynchronize]⟩

/-- The signature read takes at most `SIG_LEN` bytes. -/
theorem State.readSignature_length (s : State) :
    s.readSignature.2.length ≤ s.cfg.sig.length := by
  simp [State.readSignature]

/-! ### When an operation has a step (60_exceptions R230) -/

@[simp] theorem State.whenReady_ready {s : State} (h : s.session = .ready) (d : s.desync = false)
    (k : Result) : s.whenReady k = k := by simp [State.whenReady, h, d]

theorem State.whenReady_next {s t : State} {k : Result} :
    s.whenReady k = .next t ↔ s.session = .ready ∧ s.desync = false ∧ k = .next t := by
  unfold State.whenReady
  by_cases h : s.session = .ready <;> by_cases d : s.desync <;> simp [h, d]

/-- Outside `Ready`, or desynchronized, the operation is refused. -/
theorem State.whenReady_refused {s : State} (h : s.session ≠ .ready ∨ s.desync = true) (k : Result) :
    ∃ r, s.whenReady k = .refused r := by
  unfold State.whenReady
  by_cases h1 : s.session = .ready
  · have d : s.desync = true := h.resolve_left (fun hn => hn h1)
    exact ⟨.desynchronized, by simp [h1, d]⟩
  · exact ⟨.wrongSession s.session, by simp [h1]⟩

@[simp] theorem State.inSession_here {s : State} {x : Session} (h : s.session = x) (k : Result) :
    s.inSession x k = k := by simp [State.inSession, h]

theorem State.inSession_next {s t : State} {x : Session} {k : Result} :
    s.inSession x k = .next t ↔ s.session = x ∧ k = .next t := by
  unfold State.inSession
  by_cases h : s.session = x <;> simp [h]

theorem State.inSession_elsewhere {s : State} {x : Session} (h : s.session ≠ x) (k : Result) :
    s.inSession x k = .refused (.wrongSession s.session) := by simp [State.inSession, h]

theorem withOperands_next {ok : Bool} {k : Result} {t : State} :
    withOperands ok k = .next t ↔ ok = true ∧ k = .next t := by
  unfold withOperands
  cases ok <;> simp

/-- Everything the step of a primitive can do (R130). -/
theorem stepPrim_next {p : Prim} {s t : State} :
    stepPrim p s = .next t ↔ s.session = .ready ∧ s.desync = false ∧ t = s.issue p := by
  unfold stepPrim
  rw [State.whenReady_next]
  constructor
  · rintro ⟨h, d, k⟩
    exact ⟨h, d, (Host.Outcome.next.inj k).symm⟩
  · rintro ⟨h, d, rfl⟩
    exact ⟨h, d, rfl⟩

end Sys2Proof.Machine
end

