-- ==== Sys2Proof/Laws/Run.lean ====
section
/-! SUPPORT. Laws/Run.lean: how runs of several steps compose, and what one step can be. -/

namespace Sys2Proof.Machine

@[simp] theorem run_zero (s : State) : run 0 s = .next s := rfl

/-- A run that begins with a step that goes on is the rest of it from there. -/
theorem run_succ_of_next {k : Nat} {s t : State} (h : step s = .next t) :
    run (k + 1) s = run k t := by simp [run, h]

/-- Runs compose. -/
theorem run_add_of_next {k l : Nat} {s t : State} (h : run k s = .next t) :
    run (k + l) s = run l t := by
  induction k generalizing s with
  | zero =>
    cases Host.Outcome.next.inj h
    rw [Nat.zero_add]
  | succ k ih =>
    rw [Nat.add_right_comm]
    simp only [run] at h ⊢
    split at h <;> simp_all

/-- One step more of a host run that goes on. -/
theorem hostRun_succ (M : Host.Core) (k : Nat) (s : M.State) :
    M.run (k + 1) s =
      match M.step s with
      | .next t => M.run k t
      | .fault f => .fault f
      | .refused r => .refused r := by
  cases h : M.step s <;> simp [Host.Core.run, h]

/-- The host's run of this machine is the same. -/
theorem core_run_eq (k : Nat) (s : State) : Sys2Proof.core.run k s = run k s := by
  induction k generalizing s with
  | zero => rfl
  | succ k ih =>
    refine (hostRun_succ Sys2Proof.core k s).trans ?_
    have e : Sys2Proof.core.step s = step s := rfl
    rw [e, run]
    cases step s with
    | next t => exact ih t
    | fault f => rfl
    | refused r => rfl

/-- A primitive runs as `step(p)` (41_primitives R130). -/
theorem exec_toInstr (p : Prim) (s : State) : exec p.toInstr s = stepPrim p s := by cases p <;> rfl

/-- What a session state's table reads from bytes (30_encoding R83). -/
theorem decodeInSession_eq_some {c : Config} {x : Session} {bs : List Byte} {i : Instr} :
    decodeInSession c x bs = some i ↔ decodeOne c x.table bs = .ok i := by
  unfold decodeInSession
  split <;> simp_all

/-- A row's home selects the table the row is in (30_encoding R83, R95). -/
@[simp] theorem Instr.home_table (i : Instr) : i.home.table = i.table := by cases i <;> rfl

/-- Everything one step can be: the command at the head of the list is run with it handed over. -/
theorem step_next_cases {s t : State} (h : step s = .next t) :
    (∃ i, exec i s.pop = .next t ∧
      (s.commands.head? = some (.operation i) ∨
        ∃ bs, s.commands.head? = some (.encoded bs) ∧ decodeOne s.cfg s.session.table bs = .ok i)) ∨
    (∃ c, s.commands.head? = some (.call c) ∧ runCall c s.pop = .next t) ∨
    (∃ bs, s.commands.head? = some (.arrive bs) ∧ t = s.pop.arrive bs) := by
  unfold step State.fetch at h
  cases hc : s.commands with
  | nil => simp [hc] at h
  | cons c rest =>
    cases c with
    | operation i =>
      simp only [hc] at h
      exact Or.inl ⟨i, h, Or.inl rfl⟩
    | encoded bs =>
      simp only [hc, State.fetchEncoded] at h
      cases hd : decodeOne s.cfg s.session.table bs with
      | ok i =>
        simp only [hd] at h
        exact Or.inl ⟨i, h, Or.inr ⟨bs, rfl, hd⟩⟩
      | error e => simp [hd] at h
    | call c =>
      simp only [hc] at h
      exact Or.inr (Or.inl ⟨c, rfl, h⟩)
    | arrive bs =>
      simp only [hc] at h
      exact Or.inr (Or.inr ⟨bs, rfl, (Host.Outcome.next.inj h).symm⟩)

end Sys2Proof.Machine
end

