-- ==== Sys2Proof/Laws/Effects.lean ====
section
/-! SUPPORT. Laws/Effects.lean: everything each shared operation can do, and from that everything one step can do,
so that a rule about all operations is proved by one case analysis. -/

namespace Sys2Proof.Machine

/-! ### Primitives as instructions -/

/-- Different primitives are different instructions (30_encoding R94). -/
theorem Prim.toInstr_injective {p q : Prim} (h : p.toInstr = q.toInstr) : p = q := by
  cases p <;> cases q <;> simp_all [Prim.toInstr]

/-- A primitive's opcode is in the two-wire table (R81). -/
@[simp] theorem Prim.toInstr_table (p : Prim) : p.toInstr.table = .twoWire := by cases p <;> rfl

/-- No encoding is empty. -/
theorem encode_ne_nil (c : Config) (i : Instr) : encode c i ≠ [] := by cases i <;> simp [encode]

/-! ### The receive queue's account (10_state R24) -/

@[simp] theorem takenBytes_append (es fs : List Event) :
    takenBytes (es ++ fs) = takenBytes es ++ takenBytes fs := by
  induction es with
  | nil => rfl
  | cons e es ih => cases e <;> simp [takenBytes, ih]

/-- Nothing is taken by transmitting. -/
@[simp] theorem takenBytes_map_tx (bs : List Byte) : takenBytes (bs.map .tx) = [] := by
  induction bs with
  | nil => rfl
  | cons b bs ih => simpa [takenBytes] using ih

theorem answeredBytes_append (c : Config) (env : Env) (before es fs : List Event) :
    answeredBytes c env before (es ++ fs) =
      answeredBytes c env before es ++ answeredBytes c env (before ++ es) fs := by
  induction es generalizing before with
  | nil => simp [answeredBytes]
  | cons e es ih => simp [answeredBytes, ih]

/-- Nothing is looked for while transmitting. -/
@[simp] theorem answeredBytes_map_tx (c : Config) (env : Env) (before : List Event)
    (bs : List Byte) : answeredBytes c env before (bs.map .tx) = [] := by
  induction bs generalizing before with
  | nil => rfl
  | cons b bs ih => simpa [answeredBytes, isRead] using ih _

/-! ### Mode entry (40_session R111) -/

/-- What one mode-entry attempt leaves alone, and the event pair it records. -/
theorem State.attemptEntry_ev (s : State) :
    s.attemptEntry.1.ev = s.ev ++ [.tx s.cfg.opcBridgeReset,
      .collect s.attemptEntry.2 (decide (s.attemptEntry.2.length = s.cfg.sig.length))] := by
  simp [State.attemptEntry]
  rfl

/-- What mode entry leaves alone, where it can end, and that it only adds to the two histories. -/
theorem State.enterWithin_frame (k : Nat) (s : State) :
    ((s.enterWithin k).session = .bridgeEntered ∨ (s.enterWithin k).session = .closed) ∧
    (s.enterWithin k).desync = s.desync ∧ (s.enterWithin k).phase = s.phase ∧
    (s.enterWithin k).viol = s.viol ∧ (s.enterWithin k).cfg = s.cfg ∧
    (s.enterWithin k).env = s.env ∧ (s.enterWithin k).commands = s.commands ∧
    s.ev <+: (s.enterWithin k).ev ∧ s.replies <+: (s.enterWithin k).replies := by
  induction k generalizing s with
  | zero =>
    exact ⟨Or.inr rfl, rfl, rfl, rfl, rfl, rfl, rfl, List.prefix_rfl, List.prefix_append _ _⟩
  | succ k ih =>
    have e : s.ev <+: s.attemptEntry.1.ev := by
      rw [State.attemptEntry_ev]
      exact List.prefix_append _ _
    unfold State.enterWithin
    split
    · exact ⟨Or.inl rfl, rfl, rfl, rfl, rfl, rfl, rfl, e, List.prefix_append _ _⟩
    · obtain ⟨h1, h2, h3, h4, h5, h6, h7, h8, h9⟩ := ih s.attemptEntry.1
      exact ⟨h1, h2, h3, h4, h5, h6, h7, e.trans h8, h9⟩

/-- Mode entry transmits reset-to-bridge and nothing else. -/
theorem State.enterWithin_tx (k : Nat) (s : State) :
    ∃ n, (s.enterWithin k).tx = s.tx ++ List.replicate n s.cfg.opcBridgeReset := by
  induction k generalizing s with
  | zero => exact ⟨0, by simp [State.enterWithin, State.tx_eq]⟩
  | succ k ih =>
    have e : s.attemptEntry.1.tx = s.tx ++ [s.cfg.opcBridgeReset] := by
      rw [State.tx_of_ev s.attemptEntry_ev]
      simp
    unfold State.enterWithin
    split
    · exact ⟨1, e⟩
    · obtain ⟨n, h⟩ := ih s.attemptEntry.1
      refine ⟨n + 1, ?_⟩
      rw [h, e]
      simp [State.attemptEntry, List.replicate_succ]

/-! ### Page writes (42_transactions R155, 43_pagewriter R170) -/

/-- Everything `PAGEWR` comes to: no page, a page that would cross a row, or the whole expansion. -/
theorem State.pageWrite_cases (hi lo : Byte) (d : List Byte) (s : State) :
    (pageSized d.length = false ∧ s.pageWrite hi lo d = .refused) ∨
    (pageSized d.length = true ∧ fitsRow lo.toNat d.length = false ∧
      s.pageWrite hi lo d = .rejected) ∨
    (pageSized d.length = true ∧ fitsRow lo.toNat d.length = true ∧
      s.pageWrite hi lo d = .committed (s.performAll (pagewrActions s.cfg hi lo d))) := by
  unfold State.pageWrite
  cases pageSized d.length <;> cases fitsRow lo.toNat d.length <;> simp

/-- Whatever the page writer's loop does to the state is the expansion of some templates. -/
theorem writeChunks_performAll {k : Nat} {w w' : WriteProgress} {s t : State}
    (h : writeChunks k w s = some (w', t)) : ∃ as, t = s.performAll as := by
  induction k generalizing w s with
  | zero =>
    cases h
    exact ⟨[], rfl⟩
  | succ k ih =>
    unfold writeChunks at h
    split at h
    · cases h
      exact ⟨[], rfl⟩
    · split at h
      · cases h
        exact ⟨[], rfl⟩
      · rcases s.pageWrite_cases (BitVec.ofNat 8 w.hi) (BitVec.ofNat 8 w.lo)
          (w.rest.take (chunkLength w.rest.length w.lo)) with ⟨-, e⟩ | ⟨-, -, e⟩ | ⟨-, -, e⟩
        · simp only [e] at h
          cases h
        · simp only [e] at h
          exact ih h
        · simp only [e] at h
          obtain ⟨as, r⟩ := ih h
          exact ⟨_ ++ as, by rw [State.performAll_append, r]⟩

/-! ### De-interleaving (44_bulkreader R192) -/

/-- The data byte is the first of each pair. -/
theorem deinterleave_getElem? (l : List Byte) (n : Nat) (h : l.length = 2 * n) (i : Nat) :
    (deinterleave l)[i]? = l[2 * i]? := by
  induction n generalizing l i with
  | zero =>
    have e : l = [] := List.length_eq_zero_iff.1 (by omega)
    subst e
    simp [deinterleave]
  | succ n ih =>
    match l, h with
    | a :: b :: l, h =>
      cases i with
      | zero => simp [deinterleave]
      | succ i =>
        rw [show 2 * (i + 1) = 2 * i + 1 + 1 by omega]
        simpa [deinterleave] using ih l (by simp at h; omega) i
    | [a], h => simp at h; omega
    | [], h => simp at h

/-- Half the bytes are data bytes. -/
theorem deinterleave_length (l : List Byte) (n : Nat) (h : l.length = 2 * n) :
    (deinterleave l).length = n := by
  induction n generalizing l with
  | zero =>
    have e : l = [] := List.length_eq_zero_iff.1 (by omega)
    subst e
    rfl
  | succ n ih =>
    match l, h with
    | a :: b :: l, h => simpa [deinterleave] using ih l (by simp at h; omega)
    | [a], h => simp at h; omega
    | [], h => simp at h

/-! ### Everything one step can do -/

/-- What arrives by the next command is a matter of the head of the list. -/
theorem State.arrivingNext_eq (s : State) :
    s.arrivingNext =
      match s.commands.head? with
      | some (.arrive bs) => bs
      | _ => [] := by
  unfold State.arrivingNext
  cases s.commands with
  | nil => rfl
  | cons c _ => cases c <;> rfl

/-- Hand a read's outcome over: the reply made of its bytes, or the error (42_transactions R151, 44_bulkreader
R194). -/
def State.deliver (f : List Byte → Reply) (x : State × Except Err (List Byte)) : State :=
  match x.2 with
  | .ok bs => x.1.answer (f bs)
  | .error e => x.1.raise e

/-- What an operation can do to the state it has a step in: one primitive, one session operation, the
abandonment, a verdict, or, in `Ready`, the expansion of templates with or without a
collect at its end. -/
inductive Effect (s : State) : State → Prop
  | primitive (p : Prim) (h : s.session = .ready) (d : s.desync = false) : Effect s (s.issue p)
  | entry (h : s.session = .idle) : Effect s (s.enterWithin s.cfg.nRetry)
  | busMode (h : s.session = .bridgeEntered) :
    Effect s ((s.emit s.cfg.opcSelTwoWire).drain.goTo .busModeSelected)
  | powerOn (h : s.session = .busModeSelected) : Effect s ((s.emit s.cfg.opcPwrOn).goTo .ready)
  | powerOff (h : s.session = .ready) : Effect s ((s.emit s.cfg.opcPwrOff).goTo .closed)
  | abandoned (h : s.session = .bridgeEntered ∨ s.session = .busModeSelected) :
    Effect s (s.goTo .closed)
  | compared (v : Verdict) : Effect s (s.answer (.verdict v))
  | expansion (as : List Action) (rs : List Reply) (h : s.session = .ready)
    (d : s.desync = false) : Effect s { s.performAll as with replies := s.replies ++ rs }
  | collection (as : List Action) (n : Nat) (f : List Byte → Reply) (h : s.session = .ready)
    (d : s.desync = false) (hn : 1 ≤ n) :
    Effect s (State.deliver f ((s.performAll as).collect n))

/-- Everything an opcode-bearing operation can do. -/
theorem exec_effect {i : Instr} {s t : State} (h : exec i s = .next t) : Effect s t := by
  have prim (p : Prim) (hp : stepPrim p s = .next t) : Effect s t := by
    obtain ⟨a, b, rfl⟩ := stepPrim_next.1 hp
    exact .primitive p a b
  cases i with
  | start => exact prim .start h
  | write b => exact prim (.write b) h
  | readAck => exact prim .readAck h
  | readNack => exact prim .readNack h
  | stop => exact prim .stop h
  | configurePowerOn =>
    obtain ⟨a, b⟩ := State.inSession_next.1 (show s.inSession _ _ = _ from h)
    cases b
    exact .powerOn a
  | configurePowerOff =>
    obtain ⟨a, b⟩ := State.inSession_next.1 (show s.inSession _ _ = _ from h)
    cases b
    exact .powerOff a
  | enterBridgeMode =>
    obtain ⟨a, b⟩ := State.inSession_next.1 (show s.inSession _ _ = _ from h)
    cases b
    exact .entry a
  | selectBusMode =>
    obtain ⟨a, b⟩ := State.inSession_next.1 (show s.inSession _ _ = _ from h)
    cases b
    exact .busMode a
  | selectSpi => cases h
  | selectUart => cases h
  | selectOneWire => cases h
  | selectRawWire => cases h
  | deviceReset => cases h
  | selfTest => cases h

/-- An expansion with one reply after it. -/
theorem expansion_answer (as : List Action) (r : Reply) {s : State} (h : s.session = .ready)
    (d : s.desync = false) : Effect s ((s.performAll as).answer r) := by
  have e : (s.performAll as).answer r = { s.performAll as with replies := s.replies ++ [r] } := by
    rw [State.answer, (s.performAll_sameFrame as).replies]
  rw [e]
  exact .expansion as [r] h d

/-- An expansion with no reply. -/
theorem expansion_silent (as : List Action) {s : State} (h : s.session = .ready)
    (d : s.desync = false) : Effect s (s.performAll as) := by
  have e : s.performAll as = { s.performAll as with replies := s.replies ++ [] } := by
    rw [List.append_nil, ← (s.performAll_sameFrame as).replies]
  rw [e]
  exact .expansion as [] h d

/-- Steps 1, 2 and 4 of `readBytes` are one expansion (44_bulkreader R190). -/
theorem readBytes_expansion (hi lo : Byte) (n : Nat) (s : State) :
    (s.ptrset hi lo).drain.readseq n =
      s.performAll (ptrsetActions s.cfg hi lo ++ [.drain] ++ readseqActions s.cfg n) := by
  rw [State.performAll_append, State.performAll_append, State.readseq, State.ptrset]
  have e : (s.performAll (ptrsetActions s.cfg hi lo)).drain.cfg = s.cfg :=
    (s.performAll_sameFrame _).cfg
  rw [e]
  rfl

/-- Everything an operation with no opcode can do. -/
theorem runCall_effect {c : Call} {s t : State} (h : runCall c s = .next t) : Effect s t := by
  cases c with
  | drain =>
    obtain ⟨a, b, e⟩ := State.whenReady_next.1 (show s.whenReady _ = _ from h)
    cases e
    exact expansion_silent [.drain] a b
  | collect n =>
    obtain ⟨a, b, e⟩ := State.whenReady_next.1 (show s.whenReady _ = _ from h)
    obtain ⟨hn, e⟩ := withOperands_next.1 e
    cases e
    exact .collection [] n .collected a b (of_decide_eq_true hn)
  | settle =>
    obtain ⟨a, b, e⟩ := State.whenReady_next.1 (show s.whenReady _ = _ from h)
    cases e
    exact expansion_silent [.settle] a b
  | ptrset hi lo =>
    obtain ⟨a, b, e⟩ := State.whenReady_next.1 (show s.whenReady _ = _ from h)
    cases e
    exact expansion_silent _ a b
  | pagewr hi lo d =>
    obtain ⟨a, b, e⟩ := State.whenReady_next.1 (show s.whenReady _ = _ from h)
    rcases s.pageWrite_cases hi lo d with ⟨-, p⟩ | ⟨-, -, p⟩ | ⟨-, -, p⟩ <;>
      simp only [p] at e <;> cases e
    · exact expansion_answer [] _ a b
    · exact expansion_answer _ _ a b
  | readseq n =>
    obtain ⟨a, b, e⟩ := State.whenReady_next.1 (show s.whenReady _ = _ from h)
    obtain ⟨-, e⟩ := withOperands_next.1 e
    cases e
    exact expansion_silent _ a b
  | writePages data hi lo =>
    obtain ⟨a, b, e⟩ := State.whenReady_next.1 (show s.whenReady _ = _ from h)
    split at e
    · cases e
      exact expansion_answer [] _ a b
    · split at e
      · cases e
      · rename_i w u hu
        cases e
        obtain ⟨as, rfl⟩ := writeChunks_performAll hu
        exact expansion_answer as _ a b
  | readBytes hi lo n =>
    obtain ⟨a, b, e⟩ := State.whenReady_next.1 (show s.whenReady _ = _ from h)
    split at e
    · cases e
      have x := expansion_answer (ptrsetActions s.cfg hi lo ++ [.drain]) (.buffer []) a b
      rwa [State.performAll_append] at x
    · cases e
      have x := Effect.collection (ptrsetActions s.cfg hi lo ++ [.drain] ++ readseqActions s.cfg n)
        (s.cfg.readLead + 2 * n) (fun bs => .buffer (readBuffer s.cfg.readLead bs)) a b (by omega)
      have c := (s.performAll_sameFrame
        (ptrsetActions s.cfg hi lo ++ [.drain] ++ readseqActions s.cfg n)).cfg
      rw [readBytes_expansion, State.collectBuffer, c]
      exact x
  | compare e a =>
    cases h
    exact .compared _
  | abandon =>
    simp only [runCall, callAbandon] at h
    split at h
    · cases h
      exact .abandoned ‹_›
    · cases h

/-- Everything one step can do, from the state in which its command is handed over: an operation's effect, with
nothing arriving of itself, or an arrival. -/
theorem step_effect {s t : State} (h : step s = .next t) :
    (Effect s.pop t ∧ s.arrivingNext = []) ∨ t = s.pop.arrive s.arrivingNext := by
  rcases step_next_cases h with ⟨i, hi, hc⟩ | ⟨c, hc, hi⟩ | ⟨bs, hc, rfl⟩
  · refine Or.inl ⟨exec_effect hi, ?_⟩
    rcases hc with hc | ⟨bs, hc, -⟩ <;> simp [State.arrivingNext_eq, hc]
  · exact Or.inl ⟨runCall_effect hi, by simp [State.arrivingNext_eq, hc]⟩
  · exact Or.inr (by simp [State.arrivingNext_eq, hc])

end Sys2Proof.Machine
end

