-- ==== Sys2Proof/Laws/Memory.lean ====
section
/-! SUPPORT. Laws/Memory.lean: every operation on the device's byte space keeps its canonical form (20_memory R51;
the fixture of 95_test_vectors section 4). -/

namespace Sys2Proof.Machine

/-- The erased device memory is in canonical form. -/
theorem Memory.wf_nil : Memory.wf [] := ⟨List.Pairwise.nil, fun _ h => absurd h List.not_mem_nil⟩

/-- A memory without its lowest cell is in canonical form. -/
theorem Memory.wf_tail {x : Host.Cell} {m : List Host.Cell} (h : Memory.wf (x :: m)) : Memory.wf m :=
  ⟨(List.pairwise_cons.1 h.1).2, fun y hy => h.2 y (List.mem_cons_of_mem x hy)⟩

/-- In canonical form every later cell lies above the first. -/
theorem Memory.wf_head_lt {x y : Host.Cell} {m : List Host.Cell} (h : Memory.wf (x :: m))
    (hy : y ∈ m) : x.1 < y.1 := (List.pairwise_cons.1 h.1).1 y hy

/-- A cell put before a memory that lies above it. -/
theorem Memory.wf_put {a : Nat} {b : Byte} {m : List Host.Cell} (h : Memory.wf m)
    (ha : a < addressSpace) (hm : ∀ x ∈ m, a < x.1) : Memory.wf (Memory.put a b m) := by
  unfold Memory.put
  split
  · exact h
  · refine ⟨List.pairwise_cons.2 ⟨hm, h.1⟩, ?_⟩
    rintro x hx
    rcases List.mem_cons.1 hx with rfl | hx
    · exact ⟨‹_›, ha⟩
    · exact h.2 x hx

/-- Everything a write can add to the listed cells. -/
theorem Memory.mem_write {m : List Host.Cell} {a : Nat} {b : Byte} {x : Host.Cell}
    (hx : x ∈ Memory.write m a b) : x = (a, b) ∨ x ∈ m := by
  have put {m : List Host.Cell} (hx : x ∈ Memory.put a b m) : x = (a, b) ∨ x ∈ m := by
    unfold Memory.put at hx
    split at hx
    · exact Or.inr hx
    · exact List.mem_cons.1 hx
  induction m with
  | nil => exact put hx
  | cons y m ih =>
    obtain ⟨k, v⟩ := y
    unfold Memory.write at hx
    split at hx
    · exact put hx
    · split at hx
      · rcases put hx with h | h
        · exact Or.inl h
        · exact Or.inr (List.mem_cons_of_mem _ h)
      · rcases List.mem_cons.1 hx with h | h
        · exact Or.inr (h ▸ List.mem_cons_self ..)
        · rcases ih h with h | h
          · exact Or.inl h
          · exact Or.inr (List.mem_cons_of_mem _ h)

/-- A write inside the device keeps the canonical form. -/
theorem Memory.wf_write {m : List Host.Cell} {a : Nat} {b : Byte} (h : Memory.wf m)
    (ha : a < addressSpace) : Memory.wf (Memory.write m a b) := by
  induction m with
  | nil => exact Memory.wf_put h ha (fun _ hx => absurd hx List.not_mem_nil)
  | cons y m ih =>
    obtain ⟨k, v⟩ := y
    unfold Memory.write
    split
    · rename_i hk
      refine Memory.wf_put h ha ?_
      intro x hx
      rcases List.mem_cons.1 hx with rfl | hx
      · exact hk
      · exact Nat.lt_trans hk (Memory.wf_head_lt h hx)
    · split
      · rename_i hk
        exact Memory.wf_put (Memory.wf_tail h) ha (fun x hx => hk ▸ Memory.wf_head_lt h hx)
      · rename_i hk hne
        have w := ih (Memory.wf_tail h)
        refine ⟨List.pairwise_cons.2 ⟨?_, w.1⟩, ?_⟩
        · intro x hx
          rcases Memory.mem_write hx with rfl | hx
          · show k < a
            omega
          · exact Memory.wf_head_lt h hx
        · intro x hx
          rcases List.mem_cons.1 hx with rfl | hx
          · exact h.2 _ (List.mem_cons_self ..)
          · exact w.2 x hx

/-- An address no cell lists reads as erased. -/
theorem Memory.read_unlisted {m : List Host.Cell} {a : Nat} (h : ∀ x ∈ m, x.1 ≠ a) :
    Memory.read m a = Memory.erased := by
  induction m with
  | nil => rfl
  | cons y m ih =>
    unfold Memory.read
    rw [if_neg (fun e => h y (List.mem_cons_self ..) e.symm)]
    exact ih (fun x hx => h x (List.mem_cons_of_mem _ hx))

/-! ### Rows made unknown (20_memory R58, U1) -/

@[simp] theorem Memory.fillRows_nil (f : Nat → Byte) (m : List Host.Cell) :
    Memory.fillRows f [] m = m := by rw [Memory.fillRows, List.foldl_nil]

theorem Memory.fillRows_cons (f : Nat → Byte) (row : Byte) (rows : List Byte) (m : List Host.Cell) :
    Memory.fillRows f (row :: rows) m = Memory.fillRows f rows (Memory.fillRow f row m) := by
  rw [Memory.fillRows, List.foldl_cons, Memory.fillRows]

/-- Writes at addresses inside the device keep the canonical form. -/
theorem Memory.wf_writes {f : Nat → Byte} {g : Nat → Nat} {is : List Nat}
    (hg : ∀ i ∈ is, g i < addressSpace) {m : List Host.Cell} (h : Memory.wf m) :
    Memory.wf (is.foldl (fun m i => Memory.write m (g i) (f (g i))) m) := by
  induction is generalizing m with
  | nil => exact h
  | cons i is ih =>
    exact ih (fun j hj => hg j (List.mem_cons_of_mem i hj))
      (Memory.wf_write h (hg i (List.mem_cons_self ..)))

/-- A row made unknown keeps the canonical form. -/
theorem Memory.wf_fillRow {f : Nat → Byte} {row : Byte} {m : List Host.Cell} (h : Memory.wf m) :
    Memory.wf (Memory.fillRow f row m) := by
  refine Memory.wf_writes (g := fun i => row.toNat * rowSize + i) ?_ h
  intro i hi
  have h1 : i < 256 := List.mem_range.1 hi
  have h2 := row.isLt
  show row.toNat * 256 + i < 65536
  omega

/-- Rows made unknown keep the canonical form. -/
theorem Memory.wf_fillRows {f : Nat → Byte} {rows : List Byte} {m : List Host.Cell}
    (h : Memory.wf m) : Memory.wf (Memory.fillRows f rows m) := by
  induction rows generalizing m with
  | nil => rwa [Memory.fillRows_nil]
  | cons row rows ih =>
    rw [Memory.fillRows_cons]
    exact ih (Memory.wf_fillRow h)

/-! ### The reference device (95_test_vectors section 4) -/

@[simp] theorem Reference.touch_mem (row : Byte) (r : Reference) : (r.touch row).mem = r.mem := by
  unfold Reference.touch; split <;> rfl
@[simp] theorem Reference.touch_cur (row : Byte) (r : Reference) : (r.touch row).cur = r.cur := by
  unfold Reference.touch; split <;> rfl
@[simp] theorem Reference.touch_mode (row : Byte) (r : Reference) : (r.touch row).mode = r.mode := by
  unfold Reference.touch; split <;> rfl
@[simp] theorem Reference.touch_expectPayload (row : Byte) (r : Reference) : (r.touch row).expectPayload = r.expectPayload := by
  unfold Reference.touch; split <;> rfl
@[simp] theorem Reference.touch_st (row : Byte) (r : Reference) : (r.touch row).st = r.st := by
  unfold Reference.touch; split <;> rfl
@[simp] theorem Reference.touch_inFlight (row : Byte) (r : Reference) : (r.touch row).inFlight = r.inFlight := by
  unfold Reference.touch; split <;> rfl
@[simp] theorem Reference.touch_aborts (row : Byte) (r : Reference) : (r.touch row).aborts = r.aborts := by
  unfold Reference.touch; split <;> rfl
@[simp] theorem Reference.touch_lost (row : Byte) (r : Reference) : (r.touch row).lost = r.lost := by
  unfold Reference.touch; split <;> rfl
@[simp] theorem Reference.touch_pending (row : Byte) (r : Reference) : (r.touch row).pending = r.pending := by
  unfold Reference.touch; split <;> rfl

/-- An aborted transaction leaves the device's memory in canonical form and its cursor inside the device. -/
theorem Reference.abort_wf {r : Reference} (h : Memory.wf r.mem) :
    Memory.wf r.abort.mem ∧ r.abort.cur < addressSpace :=
  ⟨Memory.wf_fillRows h, Nat.mod_lt _ (by decide)⟩

/-- The reference device takes a byte: its memory stays in canonical form and its cursor inside the
device. -/
theorem Reference.deviceWrite_wf {c : Config} {b : Byte} {r : Reference}
    (h : Memory.wf r.mem) (hc : r.cur < addressSpace) :
    Memory.wf (Reference.deviceWrite c b r).1.mem ∧
      (Reference.deviceWrite c b r).1.cur < addressSpace := by
  unfold Reference.deviceWrite
  split
  · split
    · exact ⟨h, hc⟩
    · split <;> exact ⟨h, hc⟩
  · exact ⟨by simpa using h, by simpa using hc⟩
  · refine ⟨h, ?_⟩
    have h1 := r.ah.isLt
    have h2 := b.isLt
    show r.ah.toNat * 256 + b.toNat < 65536
    omega
  · refine ⟨Memory.wf_write h hc, ?_⟩
    have hc' : r.cur < 65536 := hc
    show r.cur / 256 * 256 + (r.cur + 1) % 256 < 65536
    omega
  all_goals exact ⟨h, hc⟩

/-- The state after reset shows no device memory, which is in canonical form. -/
theorem reset_deviceMemory_wf : Memory.wf State.reset.deviceMemory := Memory.wf_nil

end Sys2Proof.Machine
end

