-- ==== Sys2Proof/Laws/PerInstr.lean ====
section
/-! SUPPORT. Laws/PerInstr.lean: statements about each instruction as data, one lemma per constructor. -/

namespace Sys2Proof.Laws

/-- The opcodes of a table (30_encoding R82, R83). -/
def tableOpcodes (c : Config) : Machine.OpTable → List Byte
  | .twoWire => c.twoWireOpcodes
  | .bridge => c.bridgeOpcodes

/-- The shape of an encoding (30_encoding R80 to R82, R84, R86): the instruction is well formed, its bytes
are one or two, and the first is an opcode of the table it belongs to. -/
def EncodingShape.Statement (i : Instr) : Prop :=
  i.WellFormed = true ∧ ∀ c : Config, (encode c i).length ≤ 2 ∧
    ∃ b rest, encode c i = b :: rest ∧ b ∈ tableOpcodes c i.table

theorem EncodingShape.start : EncodingShape.Statement .start :=
  ⟨rfl, fun c => ⟨by simp [encode], _, _, rfl, by
    simp [tableOpcodes, Instr.table, Parameters.twoWireOpcodes]⟩⟩

theorem EncodingShape.write (b : Byte) : EncodingShape.Statement (.write b) :=
  ⟨rfl, fun c => ⟨by simp [encode], _, _, rfl, by
    simp [tableOpcodes, Instr.table, Parameters.twoWireOpcodes]⟩⟩

theorem EncodingShape.readAck : EncodingShape.Statement .readAck :=
  ⟨rfl, fun c => ⟨by simp [encode], _, _, rfl, by
    simp [tableOpcodes, Instr.table, Parameters.twoWireOpcodes]⟩⟩

theorem EncodingShape.readNack : EncodingShape.Statement .readNack :=
  ⟨rfl, fun c => ⟨by simp [encode], _, _, rfl, by
    simp [tableOpcodes, Instr.table, Parameters.twoWireOpcodes]⟩⟩

theorem EncodingShape.stop : EncodingShape.Statement .stop :=
  ⟨rfl, fun c => ⟨by simp [encode], _, _, rfl, by
    simp [tableOpcodes, Instr.table, Parameters.twoWireOpcodes]⟩⟩

theorem EncodingShape.configurePowerOn : EncodingShape.Statement .configurePowerOn :=
  ⟨rfl, fun c => ⟨by simp [encode], _, _, rfl, by
    simp [tableOpcodes, Instr.table, Parameters.twoWireOpcodes]⟩⟩

theorem EncodingShape.configurePowerOff : EncodingShape.Statement .configurePowerOff :=
  ⟨rfl, fun c => ⟨by simp [encode], _, _, rfl, by
    simp [tableOpcodes, Instr.table, Parameters.twoWireOpcodes]⟩⟩

theorem EncodingShape.enterBridgeMode : EncodingShape.Statement .enterBridgeMode :=
  ⟨rfl, fun c => ⟨by simp [encode], _, _, rfl, by
    simp [tableOpcodes, Instr.table, Parameters.bridgeOpcodes]⟩⟩

theorem EncodingShape.selectBusMode : EncodingShape.Statement .selectBusMode :=
  ⟨rfl, fun c => ⟨by simp [encode], _, _, rfl, by
    simp [tableOpcodes, Instr.table, Parameters.bridgeOpcodes]⟩⟩

theorem EncodingShape.selectSpi : EncodingShape.Statement .selectSpi :=
  ⟨rfl, fun c => ⟨by simp [encode], _, _, rfl, by
    simp [tableOpcodes, Instr.table, Parameters.bridgeOpcodes]⟩⟩

theorem EncodingShape.selectUart : EncodingShape.Statement .selectUart :=
  ⟨rfl, fun c => ⟨by simp [encode], _, _, rfl, by
    simp [tableOpcodes, Instr.table, Parameters.bridgeOpcodes]⟩⟩

theorem EncodingShape.selectOneWire : EncodingShape.Statement .selectOneWire :=
  ⟨rfl, fun c => ⟨by simp [encode], _, _, rfl, by
    simp [tableOpcodes, Instr.table, Parameters.bridgeOpcodes]⟩⟩

theorem EncodingShape.selectRawWire : EncodingShape.Statement .selectRawWire :=
  ⟨rfl, fun c => ⟨by simp [encode], _, _, rfl, by
    simp [tableOpcodes, Instr.table, Parameters.bridgeOpcodes]⟩⟩

theorem EncodingShape.deviceReset : EncodingShape.Statement .deviceReset :=
  ⟨rfl, fun c => ⟨by simp [encode], _, _, rfl, by
    simp [tableOpcodes, Instr.table, Parameters.bridgeOpcodes]⟩⟩

theorem EncodingShape.selfTest : EncodingShape.Statement .selfTest :=
  ⟨rfl, fun c => ⟨by simp [encode], _, _, rfl, by
    simp [tableOpcodes, Instr.table, Parameters.bridgeOpcodes]⟩⟩

end Sys2Proof.Laws
end

