-- ==== Sys2Proof/Tests/Slice0.lean ====
section
/-! SUPPORT. Tests/Slice0.lean: ill-formed terms refused, words written out from the encodings of the spec, one step
per operation, and a witness for the hypotheses of each statement. Expected results are those of
spec 95_test_vectors.md and of the examples in the rules, not the model's own answers. -/

namespace Sys2Proof.Tests

open Sys2Proof Sys2Proof.Machine Host

/-! ### Helpers -/

/-- A state with the default parameters, an empty history and a scripted environment. -/
def at_ (x : Session) (queued : List Byte) (answers : List (List Byte)) : State where
  session := x
  ev := []
  rxq := queued
  desync := false
  phase := .busIdle
  viol := false
  cfg := Config.standard
  env := .scripted answers
  commands := []
  replies := []

/-- A fresh `Ready` session in which nothing arrives. -/
def ready : State := at_ .ready [] []

/-- A session after a timeout. -/
def lost : State := { ready with desync := true, phase := .unknown }

/-- The signature of the defaults. -/
def signature : List Byte := [0x42, 0x42, 0x49, 0x4F, 0x31]

/-- The reference environment once bring-up is done, with an erased device. -/
def device : Reference := { Reference.initial 1 [] with mode := .twoWire }

/-- A `Ready` session against that environment. -/
def withDevice : State :=
  { ready with
    env := .reference device
    cfg := { Config.standard with readLead := 3, valid := by decide } }

/-- Channel events of one pointer-set to row 1 and one data byte, with no STOP. -/
def halfPage : List Event :=
  (ptrsetBytes withDevice.cfg 1 2 ++ [0x10, 0x33]).map .tx

/-- A session against that environment in the middle of a page write. -/
def inPageWrite : State := { withDevice with ev := halfPage, phase := .writeSeg }

/-- The answer is a next state of which `p` holds. -/
def goesTo (r : Result) (p : State → Bool) : Bool :=
  match r with
  | .next t => p t
  | .fault _ => false
  | .refused _ => false

/-- The answer is this refusal. -/
def refusedBy (r : Result) (w : Refusal) : Bool :=
  match r with
  | .next _ => false
  | .fault _ => false
  | .refused v => decide (v = w)

/-! ### Ill-formed terms are refused (00_scope R9, R10; 60_exceptions R230) -/

theorem test_standard_valid : Config.standard.toParameters.Valid := by decide

theorem test_wf_two_wire_opcodes_distinct :
    ¬ Parameters.Valid { Config.standard.toParameters with opcStop := 0x02 } := by decide

theorem test_wf_bridge_opcodes_distinct :
    ¬ Parameters.Valid { Config.standard.toParameters with opcSelUart := 0x02 } := by decide

theorem test_wf_one_attempt_at_least :
    ¬ Parameters.Valid { Config.standard.toParameters with nRetry := 0 } := by decide

theorem test_wf_page_not_empty : Call.WellFormed (.pagewr 0 0 []) = false := by decide

theorem test_wf_page_at_most_128 :
    Call.WellFormed (.pagewr 0 0 (List.replicate 129 0)) = false := by
  simp [Call.WellFormed, pageLength]

theorem test_wf_page_128 : Call.WellFormed (.pagewr 0 0 (List.replicate 128 0)) = true := by
  simp [Call.WellFormed, pageLength]

theorem test_wf_readseq_zero : Call.WellFormed (.readseq 0) = false := by decide

theorem test_wf_collect_zero : Call.WellFormed (.collect 0) = false := by decide

theorem test_refused_empty_page :
    refusedBy (runCall (.pagewr 0 0 []) ready) .illFormedOperands = true := by decide

/-! ### Words, bit by bit from 30_encoding R81, R82 and the patterns of the opcode table -/

theorem test_word_start : decodeTableWord 8 0b00000010 = some .start := by decide
theorem test_word_write : decodeTableWord 16 0b0001000010100000 = some (.write 0xA0) := by decide
theorem test_word_write_opcode_value :
    decodeTableWord 16 0b0001000000000011 = some (.write 0x03) := by decide
theorem test_word_read_ack : decodeTableWord 16 0b0000010000000110 = some .readAck := by decide
theorem test_word_read_nack : decodeTableWord 16 0b0000010000000111 = some .readNack := by decide
theorem test_word_stop : decodeTableWord 8 0b00000011 = some .stop := by decide
theorem test_word_power_on : decodeTableWord 8 0b01001100 = some .configurePowerOn := by decide
theorem test_word_power_off : decodeTableWord 8 0b01000000 = some .configurePowerOff := by decide
theorem test_word_bridge_reset : decodeTableWord 8 0b00000000 = some .enterBridgeMode := by decide
theorem test_word_select_two_wire :
    decodeWordIn .bridgeEntered 8 0b00000010 = some .selectBusMode := by decide
theorem test_word_select_spi : decodeTableWord 8 0b00000001 = some .selectSpi := by decide
theorem test_word_select_uart :
    decodeWordIn .bridgeEntered 8 0b00000011 = some .selectUart := by decide
theorem test_word_select_one_wire : decodeTableWord 8 0b00000100 = some .selectOneWire := by decide
theorem test_word_select_raw_wire : decodeTableWord 8 0b00000101 = some .selectRawWire := by decide
theorem test_word_device_reset : decodeTableWord 8 0b00001111 = some .deviceReset := by decide
theorem test_word_self_test : decodeTableWord 8 0b00010000 = some .selfTest := by decide

/-- R86: a handshake opcode with no read before it is no operation. -/
theorem test_word_lone_ack : decodeTableWord 8 0b00000110 = none := by decide

/-- R86: a read followed by anything but a handshake opcode is no operation. -/
theorem test_word_read_then_stop : decodeTableWord 16 0b0000010000000011 = none := by decide

/-- R86: a byte in no table is no operation. -/
theorem test_word_unknown : decodeTableWord 8 0b11111111 = none := by decide

/-- R85: a payload equal to an opcode is data by position. -/
theorem test_stream_payload_is_data :
    decodeStream Config.standard .twoWire [0x02, 0x10, 0xA0, 0x10, 0x03, 0x03] =
      .ok [.start, .write 0xA0, .write 0x03, .stop] := rfl

/-- R80, R81: byte 0 is transmitted first. -/
theorem test_encode_write : encode Config.standard (.write 0xDE) = [0x10, 0xDE] := by decide

/-- R90: the control bytes of the defaults. -/
theorem test_control_bytes :
    Config.standard.ctrlW = 0xA0 ∧ Config.standard.ctrlR = 0xA1 := by decide

/-- R92: an unknown name, a missing comma and a number past a byte are rejected. -/
theorem test_text_rejects :
    Assembler.line "NOP".toList = none ∧ Assembler.line "PTRSET 1 2".toList = none ∧
      Assembler.line "WRITE 0x100".toList = none := by decide

/-! ### The five primitives, one step each (the examples of 41_primitives R132 to R136) -/

theorem test_start :
    goesTo (exec .start ready) (fun t => t.tx = [0x02] ∧ t.phase = .started ∧ t.viol = false) =
      true := by decide

theorem test_start_in_read_violates :
    goesTo (exec .start { ready with phase := .readSeg })
      (fun t => t.tx = [0x02] ∧ t.phase = .unknown ∧ t.viol = true) = true := by decide

theorem test_write_control :
    goesTo (exec (.write 0xA0) { ready with phase := .started })
      (fun t => t.tx = [0x10, 0xA0] ∧ t.phase = .writeSeg) = true := by decide

theorem test_write_idle_violates :
    goesTo (exec (.write 0x03) ready)
      (fun t => t.tx = [0x10, 0x03] ∧ t.phase = .unknown ∧ t.viol = true) = true := by decide

theorem test_read_ack :
    goesTo (exec .readAck { ready with phase := .readSeg })
      (fun t => t.tx = [0x04, 0x06] ∧ t.phase = .readSeg ∧ t.rxq = []) = true := by decide

theorem test_read_nack :
    goesTo (exec .readNack { ready with phase := .readSeg })
      (fun t => t.tx = [0x04, 0x07] ∧ t.phase = .readDone) = true := by decide

theorem test_second_read_nack_violates :
    goesTo (exec .readNack { ready with phase := .readDone })
      (fun t => t.phase = .unknown ∧ t.viol = true) = true := by decide

theorem test_stop :
    goesTo (exec .stop { ready with phase := .writeSeg })
      (fun t => t.tx = [0x03] ∧ t.phase = .busIdle) = true := by decide

theorem test_stop_after_start_violates :
    goesTo (exec .stop { ready with phase := .started })
      (fun t => t.tx = [0x03] ∧ t.viol = true) = true := by decide

theorem test_primitive_refused_before_ready :
    refusedBy (exec .start (at_ .busModeSelected [] [])) (.wrongSession .busModeSelected) = true ∧
      refusedBy (exec .stop lost) .desynchronized = true := by decide

/-! ### The session operations (the examples of 40_session R111, R113, R114) -/

/-- The signature on the third attempt: `S.TX = 00 00 00`. -/
theorem test_enter_third_attempt :
    goesTo (exec .enterBridgeMode (at_ .idle [] [[], [], signature]))
      (fun t => t.tx = [0x00, 0x00, 0x00] ∧ t.session = .bridgeEntered) = true := by decide

/-- No signature: `N_RETRY` opcodes, the session closed, the error raised. -/
theorem test_enter_fails :
    goesTo (exec .enterBridgeMode (at_ .idle [] []))
      (fun t => t.tx = List.replicate 20 0x00 ∧ t.session = .closed ∧
        t.replies = [.raised .modeEntryError] ∧ t.desync = false) = true := by decide

theorem test_select_bus_mode :
    goesTo (exec .selectBusMode (at_ .bridgeEntered [] [[0x49, 0x32, 0x43, 0x31]]))
      (fun t => t.ev = [.tx 0x02, .drain [0x49, 0x32, 0x43, 0x31]] ∧
        t.session = .busModeSelected) = true := by decide

theorem test_power_on :
    goesTo (exec .configurePowerOn (at_ .busModeSelected [] []))
      (fun t => t.tx = [0x4C] ∧ t.session = .ready ∧ t.busPower) = true := by decide

theorem test_power_off_when_lost :
    goesTo (exec .configurePowerOff lost) (fun t => t.tx = [0x40] ∧ t.session = .closed) = true := by
  decide

theorem test_unused_opcodes :
    refusedBy (exec .selectSpi (at_ .bridgeEntered [] [])) .neverEmitted = true ∧
      refusedBy (exec .selfTest ready) .neverEmitted = true := by decide

/-! ### Channel actions, templates, drivers, verifier (the examples of 42 to 45) -/

/-- R150's example. -/
theorem test_drain :
    goesTo (runCall .drain (at_ .ready [1, 1, 0, 1, 0, 1, 0] []))
      (fun t => t.ev = [.drain [1, 1, 0, 1, 0, 1, 0]] ∧ t.rxq = []) = true := by decide

/-- R151's examples. -/
theorem test_collect :
    goesTo (runCall (.collect 4) (at_ .ready [0x11, 1, 0x22, 1] []))
      (fun t => t.replies = [.collected [0x11, 1, 0x22, 1]] ∧ t.desync = false) = true := by decide

theorem test_collect_short :
    goesTo (runCall (.collect 4) (at_ .ready [0x11, 1, 0x22] []))
      (fun t => t.replies = [.raised (.ioTimeout 4 3)] ∧ t.desync ∧ t.rxq = []) = true := by decide

/-- R154's example. -/
theorem test_ptrset :
    goesTo (runCall (.ptrset 0x12 0x34) ready)
      (fun t => t.tx = [0x02, 0x10, 0xA0, 0x10, 0x12, 0x10, 0x34] ∧ t.phase = .writeSeg) = true := by
  decide

/-- R155's example. -/
theorem test_pagewr :
    goesTo (runCall (.pagewr 0x00 0x10 [0xDE, 0xAD]) ready)
      (fun t => t.ev = [.tx 0x02, .tx 0x10, .tx 0xA0, .tx 0x10, .tx 0x00, .tx 0x10, .tx 0x10,
        .drain [], .tx 0x10, .tx 0xDE, .tx 0x10, .tx 0xAD, .tx 0x03, .settle]) = true := by decide

theorem test_pagewr_row_end :
    goesTo (runCall (.pagewr 0 255 [1, 2]) ready)
      (fun t => t.tx = [] ∧ t.replies = [.page false [.pageBoundaryError none 0 255 2]]) = true := by
  decide

/-- R156's example. -/
theorem test_readseq :
    goesTo (runCall (.readseq 3) ready)
      (fun t => t.tx = [0x02, 0x10, 0xA1, 0x04, 0x06, 0x04, 0x06, 0x04, 0x07, 0x03]) = true := by
  decide

/-- R178: the source's own case, 2 bytes from `(0, 255)`. -/
theorem test_write_pages_row_rollover :
    goesTo (runCall (.writePages [0x11, 0x22] 0 255) ready)
      (fun t => t.tx = [0x02, 0x10, 0xA0, 0x10, 0x00, 0x10, 0xFF, 0x10, 0x11, 0x03,
          0x02, 0x10, 0xA0, 0x10, 0x01, 0x10, 0x00, 0x10, 0x22, 0x03] ∧
        t.replies = [.written 2 []] ∧ t.phase = .busIdle) = true := by decide

/-- R178: 3 bytes from `(255, 254)`. -/
theorem test_write_pages_exhausted :
    goesTo (runCall (.writePages [1, 2, 3] 255 254) ready)
      (fun t => t.replies = [.written 2 [.addressSpaceExhausted 1 2 1]]) = true := by decide

/-- R199's example. -/
theorem test_read_bytes :
    goesTo (runCall (.readBytes 0x12 0x34 3) (at_ .ready [] [[], [0xAA, 1, 0xBB, 1, 0xCC, 1]]))
      (fun t => t.replies = [.buffer [0xAA, 0xBB, 0xCC]] ∧
        t.tx = [0x02, 0x10, 0xA0, 0x10, 0x12, 0x10, 0x34,
          0x02, 0x10, 0xA1, 0x04, 0x06, 0x04, 0x06, 0x04, 0x07, 0x03]) = true := by decide

/-- R212's examples. -/
theorem test_compare :
    compareBytes [1, 2, 3] [1, 2, 4] = .mismatch 2 3 4 ∧
      compareBytes [1, 2] [1, 2, 3] = .failed (.lengthMismatch 2 3) := by decide

/-- R13, R52: the flat operations split an address into its two bytes. -/
theorem test_flat_addresses :
    memRead 0x1234 3 = .readBytes 0x12 0x34 3 ∧ memWrite 0x00FF [1] = .writePages [1] 0x00 0xFF := by
  decide

/-- R283: a run that stops in `Ready` with no transaction open is final; after a timeout it is not. -/
theorem test_final_runs : ready.isFinal = true ∧ lost.isFinal = false := by decide

/-! ### The step and the interface -/

/-- The placed word runs: START in a `Ready` session. -/
theorem test_placed_word :
    goesTo (step (ready.withFetchWord 8 0b00000010)) (fun t => t.tx = [0x02]) = true := by decide

/-- R83: the same word is select-two-wire-bus in `BridgeEntered`. -/
theorem test_placed_word_bridge_level :
    goesTo (step ((at_ .bridgeEntered [] []).withFetchWord 8 0b00000010))
      (fun t => t.tx = [0x02] ∧ t.session = .busModeSelected) = true := by decide

/-- A word of the two-wire table, placed right after reset, is handed over as in `Ready`. -/
theorem test_placed_word_after_reset :
    goesTo (step (State.reset.withFetchWord 8 0b00000010)) (fun t => t.tx = [0x02]) = true := by
  decide

/-- The first operation after reset that has a step is `enterBridgeMode` (R261). -/
theorem test_start_after_reset_refused :
    refusedBy (step (State.reset.push (.operation .start))) (.wrongSession .idle) = true := by decide

/-- R83: power/pullup-enable is no bridge-level opcode. -/
theorem test_bytes_read_in_session_table :
    step (State.reset.push (.encoded [0x4C])) = .fault (.invalidEncoding (.noSuchOpcode 0x4C)) :=
  rfl

theorem test_invalid_bytes_fault :
    step (ready.push (.encoded [0x06])) = .fault (.invalidEncoding (.noSuchOpcode 0x06)) := rfl

theorem test_nothing_to_do : step ready = .refused .noCommand := rfl

/-! ### Device memory of the reference environment: R213's hypotheses on small data -/

/-- The cell written is listed, and writing what an unlisted address reads as removes it again. -/
theorem test_memory_canonical :
    Memory.write [] 5 0x11 = [(5, 0x11)] ∧ Memory.write [(5, 0x11)] 5 0xFF = [] ∧
      Memory.write [(5, 0x11)] 3 0x22 = [(3, 0x22), (5, 0x11)] := by decide

/-! ### Witnesses: for each statement with hypotheses, a state and operands that meet all of them -/

/-- StartEmitsStartOpcode, WriteEmitsOpcodeThenPayload, ReadAckEmitsReadThenAck,
ReadNackEmitsReadThenNack, StopEmitsStopOpcode, PrimitiveProgramTransmitsItsEncoding. -/
theorem witness_ready : ready.session = .ready ∧ ready.desync = false := by decide

theorem witness_StartEmitsStartOpcode : ready.session = .ready ∧ ready.desync = false := witness_ready
theorem witness_WriteEmitsOpcodeThenPayload :
    ready.session = .ready ∧ ready.desync = false := witness_ready
theorem witness_ReadAckEmitsReadThenAck :
    ready.session = .ready ∧ ready.desync = false := witness_ready
theorem witness_ReadNackEmitsReadThenNack :
    ready.session = .ready ∧ ready.desync = false := witness_ready
theorem witness_StopEmitsStopOpcode : ready.session = .ready ∧ ready.desync = false := witness_ready
theorem witness_PrimitiveProgramTransmitsItsEncoding :
    ready.session = .ready ∧ ready.desync = false := witness_ready
theorem witness_PtrsetSendsAddressHighFirst :
    ready.session = .ready ∧ ready.desync = false := witness_ready
theorem witness_EmptyReadLeavesTransactionOpen :
    ready.session = .ready ∧ ready.desync = false := witness_ready

theorem witness_PrimitiveRefusedUnlessReady :
    State.reset.session ≠ .ready ∧ (lost.session = .ready ∧ lost.desync = true) := by decide

theorem witness_MonitorAdmitsExactlyTransactions :
    ready.session = .ready ∧ ready.desync = false ∧ ready.phase = .busIdle ∧ ready.viol = false := by
  decide

/-- The shortest transactions of the two kinds are of the language. -/
theorem witness_transactions :
    IsTransaction Config.standard [.start, .write 0xA0, .stop] ∧
      IsTransaction Config.standard [.start, .write 0xA1, .readNack, .stop] :=
  ⟨⟨[], Or.inl ⟨[], rfl⟩⟩, ⟨[], Or.inr ⟨0, rfl⟩⟩⟩

theorem witness_StreamDecodesToItsOperations :
    ∀ i ∈ [Instr.start, .write 3, .stop], i.table = .twoWire := by decide

theorem witness_EncodingOfPrimitivesIsInjective :
    encodeAll Config.standard ([Prim.start, .write 2].map Prim.toInstr) =
      encodeAll Config.standard ([Prim.start, .write 2].map Prim.toInstr) := by decide

theorem witness_DecoderAcceptsOnlyEncodings :
    decodeHead Config.standard .twoWire [0x04, 0x06, 0x03] = .ok (.readAck, [0x03]) ∧
      decodeHead Config.standard .bridge [0x0F] = .ok (.deviceReset, []) := ⟨rfl, rfl⟩

theorem witness_StepRunsTheNextCommand :
    (ready.push (.operation .start)).commands = [.operation .start] ∧
    ((ready.push (.encoded [0x02])).commands = [.encoded [0x02]] ∧
      decodeOne ready.cfg .twoWire [0x02] = .ok .start) ∧
    ((State.reset.push (.encoded [0x02])).commands = [.encoded [0x02]] ∧
      decodeOne State.reset.cfg .bridge [0x02] = .ok .selectBusMode) ∧
    ((ready.push (.encoded [])).commands = [.encoded []] ∧
      decodeOne ready.cfg .twoWire [] = .error .noByte) ∧
    (ready.push (.call .drain)).commands = [.call .drain] ∧
    (ready.push (.arrive [7])).commands = [.arrive [7]] ∧ ready.commands = [] :=
  ⟨rfl, ⟨rfl, rfl⟩, ⟨rfl, rfl⟩, ⟨rfl, rfl⟩, rfl, rfl, rfl⟩

theorem witness_PlacedWordRunsAsDecoded :
    State.reset.cfg = Config.standard ∧
    (decodeWordIn State.reset.session 8 0b00000000 = some .enterBridgeMode ∧
      Instr.enterBridgeMode.home = State.reset.session) ∧
    ((∀ j, decodeWordIn State.reset.session 8 0b01001100 = some j →
        j.home ≠ State.reset.session) ∧
      decodeTableWord 8 0b01001100 = some .configurePowerOn) := by
  refine ⟨rfl, by decide, ⟨?_, by decide⟩⟩
  intro j h
  exact absurd h (by rw [show decodeWordIn State.reset.session 8 0b01001100 = none by decide]; nofun)

/-- Both ends of mode entry are reached, the success at the first and at the last attempt. -/
theorem witness_EnterBridgeModeRetriesUntilSignature :
    ready.session ≠ .idle ∧ (at_ .idle [] []).session = .idle ∧
    goesTo (exec .enterBridgeMode (at_ .idle [] [signature]))
      (fun t => t.session = .bridgeEntered) = true ∧
    goesTo (exec .enterBridgeMode (at_ .idle [] (List.replicate 19 [] ++ [signature])))
      (fun t => t.session = .bridgeEntered) = true := by decide

theorem witness_SignatureAtHeadEntersBridgeMode :
    (at_ .idle [] [signature]).session = .idle ∧
      ([] ++ (Env.scripted [signature]).answer Config.standard [.tx Config.standard.opcBridgeReset]) =
        Config.standard.sig ++ [] := by decide

theorem witness_SelectBusModeDrainsBanner :
    (at_ .bridgeEntered [] []).session = .bridgeEntered ∧ ready.session ≠ .bridgeEntered := by
  decide

theorem witness_ConfigurePowerSendsOneOpcode :
    (at_ .busModeSelected [] []).session = .busModeSelected ∧ ready.session = .ready ∧
      ready.session ≠ .busModeSelected ∧ State.reset.session ≠ .ready := by decide

theorem witness_UnusedBridgeOpcodesNeverRun :
    (Instr.selectSpi, (0x01 : Byte)) ∈ [(Instr.selectSpi, ready.cfg.opcSelSpi),
      (.selectUart, ready.cfg.opcSelUart), (.selectOneWire, ready.cfg.opcSelOneWire),
      (.selectRawWire, ready.cfg.opcSelRawWire), (.deviceReset, ready.cfg.opcDeviceReset),
      (.selfTest, ready.cfg.opcSelfTest)] := by decide

theorem witness_AbandonClosesWithoutTraffic :
    ((at_ .bridgeEntered [] []).session = .bridgeEntered ∨
      (at_ .bridgeEntered [] []).session = .busModeSelected) ∧
    ¬(ready.session = .bridgeEntered ∨ ready.session = .busModeSelected) := by decide

theorem witness_BringUpReachesReady :
    (at_ .idle [] [signature]).session = .idle ∧ (at_ .idle [] [signature]).rxq = [] ∧
      (Env.scripted [signature]).answer Config.standard [.tx Config.standard.opcBridgeReset] =
        Config.standard.sig := by decide

theorem witness_DrainEmptiesTheChannel :
    (ready.session = .ready ∧ ready.desync = false) ∧
      (lost.session ≠ .ready ∨ lost.desync = true) := by decide

/-- The shortest and the one byte too long collect of four queued bytes. -/
theorem witness_CollectTakesExactlyOrTimesOut :
    (4 ≤ ([1, 2, 3, 4] : List Byte).length ∧ ([1, 2, 3, 4] : List Byte).length < 5) ∧
      (at_ .ready [1, 2, 3, 4] []).incoming = [1, 2, 3, 4] ∧
      (lost.session ≠ .ready ∨ lost.desync = true) := by decide

theorem witness_SettleOnlyRecords :
    (ready.session = .ready ∧ ready.desync = false) ∧
      (lost.session ≠ .ready ∨ lost.desync = true) := by decide

theorem witness_CallRefusedUnlessReady :
    (Call.drain ≠ .abandon ∧ ∀ e a, Call.drain ≠ .compare e a) ∧ State.reset.session ≠ .ready ∧
      (lost.session = .ready ∧ lost.desync = true) ∧ Call.WellFormed (.collect 0) = false ∧
      Call.WellFormed (.collect 1) = true :=
  ⟨⟨by decide, fun _ _ h => nomatch h⟩, by decide, by decide, by decide, by decide⟩

/-- The longest page that ends a row. -/
theorem witness_PageWriteSendsWholeTransaction :
    1 ≤ (List.replicate 128 (0 : Byte)).length ∧ (List.replicate 128 (0 : Byte)).length ≤ 128 ∧
      (128 : Byte).toNat + (List.replicate 128 (0 : Byte)).length ≤ 256 := by
  rw [List.length_replicate]
  decide

/-- One byte more. -/
theorem witness_RowCrossingPageIsNotTransmitted :
    1 ≤ (List.replicate 128 (0 : Byte)).length ∧ (List.replicate 128 (0 : Byte)).length ≤ 128 ∧
      256 < (129 : Byte).toNat + (List.replicate 128 (0 : Byte)).length := by
  rw [List.length_replicate]
  decide

theorem witness_ReadSequenceEndsWithOneNack :
    ready.session = .ready ∧ ready.desync = false ∧ (0 : Nat) = 0 ∧ (1 : Nat) ≤ 1 := by decide

theorem witness_PageWriteRefinesItsExpansion :
    ready.session = .ready ∧ ready.desync = false ∧ 1 ≤ ([7] : List Byte).length ∧
      ([7] : List Byte).length ≤ 128 ∧ (255 : Byte).toNat + ([7] : List Byte).length ≤ 256 := by
  decide

theorem witness_OversizeBufferAbortsBeforeTraffic :
    ready.session = .ready ∧ ready.desync = false ∧
      65536 < (List.replicate 65537 (0 : Byte)).length := by
  refine ⟨rfl, rfl, ?_⟩
  rw [List.length_replicate]
  decide

/-- The last byte of a row and of a buffer. -/
theorem witness_ChunkIsAlwaysAPage : (1 : Nat) ≤ 1 ∧ 255 < 256 := by decide

/-- A buffer that ends at the last byte of the device, and one that is a byte longer. -/
theorem witness_WritePagesReturnsBytesCommitted :
    ready.session = .ready ∧ ready.desync = false ∧ ([1, 2] : List Byte).length ≤ 65536 ∧
      lin 255 254 + ([1, 2] : List Byte).length ≤ 65536 ∧
      65536 < lin 255 255 + ([1, 2] : List Byte).length := by decide

theorem witness_WritePagesSendsConsecutivePages :
    ready.session = .ready ∧ ready.desync = false ∧ ([1, 2] : List Byte).length ≤ 65536 ∧
      65536 < lin 255 255 + ([1, 2] : List Byte).length := by decide

/-- A buffer that is sent, after an empty read too, and one that has nothing to send. -/
theorem witness_WritePagesKeepsTheSession :
    goesTo (runCall (.writePages [1] 0 255) { ready with phase := .writeSeg })
      (fun t => t.ev ≠ [] ∧ t.phase = .busIdle ∧ t.viol = false) = true ∧
    goesTo (runCall (.writePages [] 0 255) ready) (fun t => t.ev = []) = true := by decide

/-- A session in which the drain finds nothing and these bytes arrive after the read. -/
def answering (bs : List Byte) : State := at_ .ready [] [[], bs]

/-- As many bytes as asked, and one too few. -/
theorem witness_ReadBytesCollectsOneBytePerPair :
    (∃ ev1 ev2 drained q,
      (answering [0xAA, 1]).session = .ready ∧ (answering [0xAA, 1]).desync = false ∧ (1 : Nat) ≤ 1 ∧
      ev1 = (answering [0xAA, 1]).ev ++ (ptrsetBytes (answering [0xAA, 1]).cfg 0 0).map .tx ∧
      drained = (answering [0xAA, 1]).rxq ++
        (answering [0xAA, 1]).env.answer (answering [0xAA, 1]).cfg ev1 ∧
      ev2 = ev1 ++ [.drain drained] ++ (readseqBytes (answering [0xAA, 1]).cfg 1).map .tx ∧
      q = (answering [0xAA, 1]).env.answer (answering [0xAA, 1]).cfg ev2 ∧
      (answering [0xAA, 1]).cfg.readLead + 2 * 1 ≤ q.length) ∧
    goesTo (runCall (.readBytes 0 0 1) (answering [0xAA, 1]))
      (fun t => t.replies = [.buffer [0xAA]]) = true ∧
    goesTo (runCall (.readBytes 0 0 1) (answering [0xAA]))
      (fun t => t.replies = [.raised (.ioTimeout 2 1)]) = true :=
  ⟨⟨_, _, _, _, rfl, rfl, by decide, rfl, rfl, rfl, rfl, by decide⟩, by decide, by decide⟩

theorem witness_ReadBytesRefinesItsSteps :
    ready.session = .ready ∧ ready.desync = false ∧ (1 : Nat) ≤ 1 := by decide

theorem witness_CompareFindsFirstMismatch :
    ([] : List Byte).length ≠ ([1] : List Byte).length ∧ ([] : List Byte) = [] ∧
      (([1] : List Byte).length = ([2] : List Byte).length ∧ ([1] : List Byte) ≠ [2]) := by decide

theorem witness_EveryStepKeepsFlagsAgreed :
    (ready.push (.operation .stop)).FlagsAgree ∧
      ∃ t, step (ready.push (.operation .stop)) = .next t :=
  ⟨⟨by decide, by decide⟩, ⟨_, rfl⟩⟩

theorem witness_SessionMovesOnlyAlongItsOrder :
    ∃ t, step (ready.push (.operation .configurePowerOff)) = .next t := ⟨_, rfl⟩

theorem witness_HistoryAndStickyFlagsOnlyGrow :
    (∃ t, step ({ lost with viol := true }.push (.operation .configurePowerOff)) = .next t) ∧
      lost.desync = true := ⟨⟨_, rfl⟩, rfl⟩

theorem witness_QueueLosesOnlyWhatReadsTake :
    (∃ t, step ((at_ .ready [1, 2] [[3]]).push (.call (.collect 2))) = .next t) ∧
      ∃ t, step (ready.push (.arrive [7])) = .next t := ⟨⟨_, rfl⟩, ⟨_, rfl⟩⟩

theorem witness_StreamAlwaysEndsOnAWholeOperation :
    ∃ t, step (ready.push (.operation (.write 7))) = .next t := ⟨_, rfl⟩

/-- Two states that agree in what the statement names and differ in what they receive. -/
theorem witness_EmissionIgnoresReception :
    (ready.push (.call .drain)).session = ((at_ .ready [9] [[7]]).push (.call .drain)).session ∧
      (ready.push (.call .drain)).session ≠ .idle ∧
      (ready.push (.call .drain)).desync = ((at_ .ready [9] [[7]]).push (.call .drain)).desync ∧
      (ready.push (.call .drain)).cfg = ((at_ .ready [9] [[7]]).push (.call .drain)).cfg ∧
      (ready.push (.call .drain)).commands = ((at_ .ready [9] [[7]]).push (.call .drain)).commands ∧
      ∃ t, step (ready.push (.call .drain)) = .next t :=
  ⟨rfl, by decide, rfl, rfl, rfl, ⟨_, rfl⟩⟩

theorem witness_ClosedIsTerminal :
    (at_ .closed [] []).session = .closed ∧
      (∃ t, step ((at_ .closed [] []).push (.arrive [1])) = .next t) ∧
      ∃ t, step ((at_ .closed [] []).push (.call (.compare [] []))) = .next t :=
  ⟨rfl, ⟨_, rfl⟩, ⟨_, rfl⟩⟩

theorem witness_DesynchronizedSessionCanOnlyClose :
    lost.session = .ready ∧ lost.desync = true ∧
      (∃ t, step (lost.push (.operation .configurePowerOff)) = .next t) ∧
      ∃ t, step (lost.push (.arrive [1])) = .next t :=
  ⟨rfl, rfl, ⟨_, rfl⟩, ⟨_, rfl⟩⟩

theorem witness_OnlyATimeoutDesynchronizes :
    ∃ t, step (ready.push (.call (.collect 1))) = .next t ∧
      (ready.push (.call (.collect 1))).desync = false ∧ t.desync = true := ⟨_, rfl, rfl, rfl⟩

theorem witness_PageWritesEndSettled :
    (∃ t, runCall (.pagewr 0 0 [1]) ready = .next t) ∧
      ∃ t, runCall (.writePages [] 0 0) ready = .next t := ⟨⟨_, rfl⟩, ⟨_, rfl⟩⟩

theorem witness_ClosingAnOpenTransactionIsNotFinal :
    (ready.push (.operation .configurePowerOff)).session = .ready ∧
      (ready.push (.operation .configurePowerOff)).commands = [.operation .configurePowerOff] ∧
      (∃ t, step (ready.push (.operation .configurePowerOff)) = .next t) ∧
      ready.isOpen = false ∧ { ready with phase := .writeSeg }.isOpen = true :=
  ⟨rfl, rfl, ⟨_, rfl⟩, rfl, rfl⟩

theorem witness_DeviceMemoryStaysCanonical :
    withDevice.env.DeviceWf ∧ ∃ t, step (withDevice.push (.operation .start)) = .next t :=
  ⟨⟨by decide, by decide⟩, ⟨_, rfl⟩⟩

theorem witness_DeviceMemoryReadAfterWrite :
    Memory.wf [(0, 0x11), (65535, 0x22)] := by decide

/-- Nothing open, so the memory carries over. -/
theorem witness_ReestablishedSessionIsNew :
    withDevice.isOpen = false ∧ withDevice.deviceInFlight = false := by decide

/-- In the middle of a page write to row 1, every other row is left alone; outside one, all of it. -/
theorem witness_AbortLeavesOtherRowsAlone :
    inPageWrite.env = .reference device ∧
      (device.replay inPageWrite.cfg inPageWrite.ev).expectPayload = false ∧
      inPageWrite.session = .ready ∧ inPageWrite.rowsInFlight = [1] ∧
      Memory.read inPageWrite.deviceMemory 0x0102 = 0x33 ∧
      highByte 0x0200 ∉ inPageWrite.rowsInFlight ∧
      inPageWrite.deviceInFlight = true ∧ withDevice.deviceInFlight = false := by decide

theorem witness_WrittenBufferReadsBack :
    withDevice.session = .ready ∧ withDevice.desync = false ∧
      withDevice.cfg.readLead = 3 ∧ withDevice.deviceListening ∧ withDevice.env.DeviceWf ∧
      0 < ([1] : List Byte).length ∧ lin 255 255 + ([1] : List Byte).length ≤ 65536 :=
  ⟨rfl, rfl, rfl, ⟨rfl, rfl, rfl⟩, ⟨by decide, by decide⟩, by decide, by decide⟩

end Sys2Proof.Tests
end

section
/-! ### The first command of the list (10_state R21, log entries 7 and 8) -/

namespace Sys2Proof.Machine

/-- Taking the first command leaves the rest of the list. -/
theorem State.pop_of_cons {s : State} {c : Command} {rest : List Command}
    (h : s.commands = c :: rest) : s.pop = { s with commands := rest } := by
  simp [State.pop, h]

theorem step_nothing {s : State} (h : s.commands = []) : step s = .refused .noCommand := by
  simp [step, State.fetch, h]

theorem step_operation {s : State} {i : Instr} {rest : List Command}
    (h : s.commands = .operation i :: rest) : step s = exec i { s with commands := rest } := by
  simp [step, State.fetch, h, State.pop_of_cons h]

theorem step_call {s : State} {c : Call} {rest : List Command}
    (h : s.commands = .call c :: rest) : step s = runCall c { s with commands := rest } := by
  simp [step, State.fetch, h, State.pop_of_cons h]

theorem step_arrive {s : State} {bs : List Byte} {rest : List Command}
    (h : s.commands = .arrive bs :: rest) :
    step s = .next { s with commands := rest, rxq := s.rxq ++ bs } := by
  simp [step, State.fetch, h, State.pop_of_cons h, State.arrive]

theorem step_encoded_ok {s : State} {bs : List Byte} {i : Instr} {rest : List Command}
    (h : s.commands = .encoded bs :: rest) (hd : decodeOne s.cfg s.session.table bs = .ok i) :
    step s = exec i { s with commands := rest } := by
  simp [step, State.fetch, State.fetchEncoded, h, hd, State.pop_of_cons h]

theorem step_encoded_error {s : State} {bs : List Byte} {e : DecodeError} {rest : List Command}
    (h : s.commands = .encoded bs :: rest) (hd : decodeOne s.cfg s.session.table bs = .error e) :
    step s = .fault (.invalidEncoding e) := by
  simp [step, State.fetch, State.fetchEncoded, h, hd]

/-- The table a session state selects, by the two states of the bridge level (30_encoding R83). -/
theorem Session.table_eq (x : Session) :
    x.table = if x = .idle ∨ x = .bridgeEntered then .bridge else .twoWire := by
  cases x <;> rfl

/-- Settles O16: one equation of `step` per shape of the command list. -/
theorem stepRunsTheNextCommand : Obligations.StepRunsTheNextCommand := by
  intro s rest
  refine ⟨fun i h => step_operation h, ?encoded, fun c h => step_call h,
    fun bs h => step_arrive h, fun h => step_nothing h⟩
  case encoded =>
    intro t bs h ht
    rw [← Session.table_eq] at ht
    subst ht
    exact ⟨fun i hd => step_encoded_ok h hd, fun e hd => step_encoded_error h hd⟩

end Sys2Proof.Machine
end

section
/-! ### A read's outcome handed over (42_transactions R151, 44_bulkreader R194) -/

namespace Sys2Proof.Machine

/-- A collect whose outcome is handed over leaves one of two states: the bytes taken and the reply
made of them, or a desynchronized channel and the timeout. -/
theorem State.deliver_collect_cases (f : List Byte → Reply) (n : Nat) (s : State) :
    (n ≤ s.incoming.length ∧ State.deliver f (s.collect n) = { s with
      rxq := s.incoming.drop n
      ev := s.ev ++ [.collect (s.incoming.take n) true]
      replies := s.replies ++ [f (s.incoming.take n)] }) ∨
    (s.incoming.length < n ∧ State.deliver f (s.collect n) = { s with
      rxq := []
      ev := s.ev ++ [.collect s.incoming false]
      desync := true
      phase := .unknown
      replies := s.replies ++ [.raised (.ioTimeout n s.incoming.length)] }) := by
  rcases s.collect_cases n with ⟨h, e⟩ | ⟨h, e⟩ <;> rw [e]
  · exact Or.inl ⟨h, rfl⟩
  · exact Or.inr ⟨h, rfl⟩

/-! ### The sticky violation flag (10_state R26, R27) -/

/-- A template's expansion never clears the violation flag. -/
theorem State.performAll_viol (as : List Action) {s : State} (h : s.viol = true) :
    (s.performAll as).viol = true := by
  induction as generalizing s with
  | nil => exact h
  | cons a as ih =>
    refine ih ?_
    cases a with
    | prim p => simp [State.perform, h]
    | drain => exact h
    | settle => exact h

/-! ### The flags agree (10_state R25, R27, R35) -/

/-- No cell of the monitor's table leads into `Unknown` but those of its own row. -/
theorem monitorNext_eq_unknown {c : Config} {ph : Phase} {p : Prim} :
    monitorNext c ph p = some .unknown ↔ ph = .unknown := by
  cases ph with
  | started =>
    cases p with
    | write b =>
      simp only [monitorNext]
      split_ifs <;> simp
    | start => simp [monitorNext]
    | readAck => simp [monitorNext]
    | readNack => simp [monitorNext]
    | stop => simp [monitorNext]
  | busIdle => cases p <;> simp [monitorNext]
  | writeSeg => cases p <;> simp [monitorNext]
  | readSeg => cases p <;> simp [monitorNext]
  | readDone => cases p <;> simp [monitorNext]
  | unknown => cases p <;> simp [monitorNext]

/-- Past bring-up the flags agree as soon as the monitor does. -/
theorem State.FlagsAgree.of_ready {s : State} (hs : s.session = .ready)
    (h : s.phase = .unknown ↔ s.viol = true ∨ s.desync = true) : s.FlagsAgree :=
  ⟨h, fun hb => by simp [State.beforeReady, hs] at hb⟩

/-- The flags agree in a state with the same flags that is not further back in bring-up. -/
theorem State.FlagsAgree.of_same_flags {s t : State} (h : s.FlagsAgree) (hp : t.phase = s.phase)
    (hv : t.viol = s.viol) (hd : t.desync = s.desync)
    (hb : t.beforeReady = true → s.beforeReady = true) : t.FlagsAgree := by
  refine ⟨?_, fun b => ?_⟩
  · rw [hp, hv, hd]
    exact h.unknown_iff
  · rw [hp, hv, hd]
    exact h.before (hb b)

/-- A primitive keeps the flags agreed: its phase is `Unknown` after a `V` cell, which sets the
violation flag, or because it was `Unknown` before. -/
theorem State.issue_flagsAgree (p : Prim) {s : State} (hs : s.session = .ready)
    (h : s.FlagsAgree) : (s.issue p).FlagsAgree := by
  refine .of_ready (by simpa using hs) ?_
  have key := monitorNext_eq_unknown (c := s.cfg) (ph := s.phase) (p := p)
  rw [h.unknown_iff] at key
  cases hm : monitorNext s.cfg s.phase p with
  | none => simp [hm]
  | some ph =>
    rw [hm, Option.some.injEq] at key
    simpa [hm] using key

theorem State.performAll_flagsAgree (as : List Action) {s : State} (hs : s.session = .ready)
    (h : s.FlagsAgree) : (s.performAll as).FlagsAgree := by
  induction as generalizing s with
  | nil => exact h
  | cons a as ih =>
    refine ih ((s.perform_sameFrame a).session.trans hs) ?_
    cases a with
    | prim p => exact s.issue_flagsAgree p hs h
    | drain => exact h.of_same_flags rfl rfl rfl id
    | settle => exact h.of_same_flags rfl rfl rfl id

/-- What an operation does keeps the flags agreed. -/
theorem Effect.flagsAgree {s t : State} (e : Effect s t) (h : s.FlagsAgree) : t.FlagsAgree := by
  cases e with
  | primitive p hs _ => exact s.issue_flagsAgree p hs h
  | entry hs =>
    obtain ⟨-, hd, hp, hv, -⟩ := s.enterWithin_frame s.cfg.nRetry
    exact h.of_same_flags hp hv hd fun _ => by simp [State.beforeReady, hs]
  | busMode hs => exact h.of_same_flags rfl rfl rfl fun _ => by simp [State.beforeReady, hs]
  | powerOn hs => exact h.of_same_flags rfl rfl rfl fun hb => by cases hb
  | powerOff hs => exact h.of_same_flags rfl rfl rfl fun hb => by cases hb
  | abandoned hs => exact h.of_same_flags rfl rfl rfl fun hb => by cases hb
  | compared v => exact h.of_same_flags rfl rfl rfl id
  | expansion as rs hs _ => exact (s.performAll_flagsAgree as hs h).of_same_flags rfl rfl rfl id
  | collection as n f hs _ _ =>
    have ha := s.performAll_flagsAgree as hs h
    have hr : (s.performAll as).session = .ready := (s.performAll_sameFrame as).session.trans hs
    rcases (s.performAll as).deliver_collect_cases f n with ⟨-, e⟩ | ⟨-, e⟩ <;> rw [e]
    · exact ha.of_same_flags rfl rfl rfl id
    · exact .of_ready hr (by simp)

/-- Settles O44. -/
theorem flagsAgreeAtReset : Obligations.FlagsAgreeAtReset :=
  ⟨by simp [State.reset], fun _ => ⟨rfl, rfl, rfl⟩⟩

/-- Settles O45: taking the command off the list touches no flag, and no effect sets them apart. -/
theorem everyStepKeepsFlagsAgreed : Obligations.EveryStepKeepsFlagsAgreed := by
  intro s t h hst
  have hp : s.pop.FlagsAgree := h.of_same_flags rfl rfl rfl id
  rcases step_effect hst with ⟨e, -⟩ | rfl
  · exact e.flagsAgree hp
  · exact hp.of_same_flags rfl rfl rfl id

/-- Settles O43: each field as R35 gives it. -/
theorem resetStateIsANewSession : Obligations.ResetStateIsANewSession :=
  ⟨rfl, rfl, rfl, rfl, rfl, rfl, rfl⟩

/-! ### The session's moves (10_state R22) -/

@[simp] theorem Session.mayMove_self (x : Session) : x.mayMove x = true := by cases x <;> rfl

/-- An operation moves the session only along R22's transitions. -/
theorem Effect.mayMove {s t : State} (e : Effect s t) : s.session.mayMove t.session = true := by
  cases e with
  | primitive p _ _ => simp
  | entry hs =>
    obtain ⟨h | h, -⟩ := s.enterWithin_frame s.cfg.nRetry <;> rw [hs, h] <;> rfl
  | busMode hs => rw [hs]; rfl
  | powerOn hs => rw [hs]; rfl
  | powerOff hs => rw [hs]; rfl
  | abandoned hs => rcases hs with hs | hs <;> rw [hs] <;> rfl
  | compared v => simp
  | expansion as rs _ _ => simp [(s.performAll_sameFrame as).session]
  | collection as n f _ _ _ =>
    rcases (s.performAll as).deliver_collect_cases f n with ⟨-, e⟩ | ⟨-, e⟩ <;>
      simp [e, (s.performAll_sameFrame as).session]

/-- Settles O46. -/
theorem sessionMovesOnlyAlongItsOrder : Obligations.SessionMovesOnlyAlongItsOrder := by
  intro s t hst
  rcases step_effect hst with ⟨e, -⟩ | rfl
  · exact e.mayMove
  · simp

/-! ### What every operation keeps (10_state R20, R23, R25, R26) -/

/-- The two histories only grow, the two sticky flags stay set, and the parameters, the environment
and the commands still to come are left alone. -/
structure State.Grows (s t : State) : Prop where
  ev : s.ev <+: t.ev
  desync : s.desync = true → t.desync = true
  viol : s.viol = true → t.viol = true
  cfg : t.cfg = s.cfg
  env : t.env = s.env
  replies : s.replies <+: t.replies
  commands : t.commands = s.commands

theorem State.performAll_grows (as : List Action) (s : State) : s.Grows (s.performAll as) := by
  obtain ⟨-, hd, hc, he, hm, hr⟩ := s.performAll_sameFrame as
  exact ⟨s.performAll_ev_prefix as, fun h => hd.trans h, State.performAll_viol as, hc, he,
    hr ▸ List.prefix_rfl, hm⟩

/-- An operation only adds. -/
theorem Effect.grows {s t : State} (e : Effect s t) : s.Grows t := by
  cases e with
  | primitive p _ _ => exact s.performAll_grows [.prim p]
  | entry _ =>
    obtain ⟨-, hd, -, hv, hc, he, hm, hev, hr⟩ := s.enterWithin_frame s.cfg.nRetry
    exact ⟨hev, fun h => hd.trans h, fun h => hv.trans h, hc, he, hr, hm⟩
  | busMode _ => exact ⟨by simp, id, id, rfl, rfl, List.prefix_rfl, rfl⟩
  | powerOn _ => exact ⟨List.prefix_append _ _, id, id, rfl, rfl, List.prefix_rfl, rfl⟩
  | powerOff _ => exact ⟨List.prefix_append _ _, id, id, rfl, rfl, List.prefix_rfl, rfl⟩
  | abandoned _ => exact ⟨List.prefix_rfl, id, id, rfl, rfl, List.prefix_rfl, rfl⟩
  | compared v => exact ⟨List.prefix_rfl, id, id, rfl, rfl, List.prefix_append _ _, rfl⟩
  | expansion as rs _ _ =>
    have g := s.performAll_grows as
    exact ⟨g.ev, g.desync, g.viol, g.cfg, g.env, List.prefix_append _ _, g.commands⟩
  | collection as n f _ _ _ =>
    have g := s.performAll_grows as
    rcases (s.performAll as).deliver_collect_cases f n with ⟨-, e⟩ | ⟨-, e⟩ <;> rw [e]
    · exact ⟨g.ev.trans (List.prefix_append _ _), g.desync, g.viol, g.cfg, g.env,
        g.replies.trans (List.prefix_append _ _), g.commands⟩
    · exact ⟨g.ev.trans (List.prefix_append _ _), fun _ => rfl, g.viol, g.cfg, g.env,
        g.replies.trans (List.prefix_append _ _), g.commands⟩

/-- Settles O47: an operation only adds, and an arrival touches the receive queue alone. -/
theorem historyAndStickyFlagsOnlyGrow : Obligations.HistoryAndStickyFlagsOnlyGrow := by
  intro s t hst
  rcases step_effect hst with ⟨e, -⟩ | rfl
  · obtain ⟨hev, hd, hv, hc, he, hr, hm⟩ := e.grows
    exact ⟨hev, hd, hv, hc, he, hr, hm⟩
  · exact ⟨List.prefix_rfl, id, id, rfl, rfl, List.prefix_rfl, rfl⟩

/-! ### How the channel is desynchronized (10_state R25, 42_transactions R151) -/

/-- An operation desynchronizes the channel only by a collect that fell short. -/
theorem Effect.desynchronizes {s t : State} (e : Effect s t) (hs : s.desync = false)
    (ht : t.desync = true) :
    ∃ bs expected, bs.length < expected ∧ (∃ es, t.ev = s.ev ++ es ++ [.collect bs false]) ∧
      t.rxq = [] ∧ t.phase = .unknown ∧
      t.replies = s.replies ++ [.raised (.ioTimeout expected bs.length)] := by
  cases e with
  | primitive p _ _ => simp [hs] at ht
  | entry _ =>
    obtain ⟨-, hd, -⟩ := s.enterWithin_frame s.cfg.nRetry
    simp [hd, hs] at ht
  | busMode _ => simp [hs] at ht
  | powerOn _ => simp [hs] at ht
  | powerOff _ => simp [hs] at ht
  | abandoned _ => simp [hs] at ht
  | compared v => simp [hs] at ht
  | expansion as rs _ _ => simp [(s.performAll_sameFrame as).desync, hs] at ht
  | collection as n f _ _ _ =>
    have fr := s.performAll_sameFrame as
    obtain ⟨es, hes⟩ := s.performAll_ev_prefix as
    rcases (s.performAll as).deliver_collect_cases f n with ⟨-, e⟩ | ⟨hn, e⟩
    · simp [e, fr.desync, hs] at ht
    · rw [e]
      exact ⟨(s.performAll as).incoming, n, hn, ⟨es, by rw [hes]⟩, rfl, rfl, by rw [fr.replies]⟩

/-- Settles O52. -/
theorem onlyATimeoutDesynchronizes : Obligations.OnlyATimeoutDesynchronizes := by
  intro s t hst hs ht
  rcases step_effect hst with ⟨e, -⟩ | rfl
  · exact e.desynchronizes hs ht
  · simp [hs] at ht

/-! ### The receive queue's account (10_state R24) -/

/-- From `s` to `t` the history gained events, and what they took off the channel followed by the
queue of `t` is the queue of `s` followed by what arrived at the reads among them. -/
def State.QueueAccount (s t : State) : Prop :=
  ∃ es, t.ev = s.ev ++ es ∧ takenBytes es ++ t.rxq = s.rxq ++ answeredBytes s.cfg s.env s.ev es

theorem State.QueueAccount.trans {s t u : State} (h : s.QueueAccount t) (hc : t.cfg = s.cfg)
    (he : t.env = s.env) (k : t.QueueAccount u) : s.QueueAccount u := by
  obtain ⟨es, hev, hq⟩ := h
  obtain ⟨fs, kev, kq⟩ := k
  rw [hev, hc, he] at kq
  refine ⟨es ++ fs, by rw [kev, hev, List.append_assoc], ?_⟩
  calc takenBytes (es ++ fs) ++ u.rxq
      = takenBytes es ++ (takenBytes fs ++ u.rxq) := by simp
    _ = takenBytes es ++ t.rxq ++ answeredBytes s.cfg s.env (s.ev ++ es) fs := by
      rw [kq, List.append_assoc]
    _ = s.rxq ++ answeredBytes s.cfg s.env s.ev (es ++ fs) := by
      rw [hq, answeredBytes_append, List.append_assoc]

/-- With no new event the queue must be the same. -/
theorem State.QueueAccount.of_same {s t : State} (hev : t.ev = s.ev) (hq : t.rxq = s.rxq) :
    s.QueueAccount t :=
  ⟨[], by simp [hev], by simp [hq, takenBytes, answeredBytes]⟩

/-- Transmitting reads nothing. -/
theorem State.QueueAccount.of_sent {s t : State} (bs : List Byte)
    (hev : t.ev = s.ev ++ bs.map .tx) (hq : t.rxq = s.rxq) : s.QueueAccount t :=
  ⟨bs.map .tx, hev, by simp [hq]⟩

/-- A collect splits what a read can find into what it took and the new queue. -/
theorem State.QueueAccount.of_collect {s t : State} {bs : List Byte} {ok : Bool}
    (hev : t.ev = s.ev ++ [.collect bs ok]) (hq : bs ++ t.rxq = s.incoming) : s.QueueAccount t :=
  ⟨_, hev, by simpa [takenBytes, answeredBytes, isRead, State.incoming, State.arriving] using hq⟩

theorem State.drain_queueAccount (s : State) : s.QueueAccount s.drain :=
  ⟨_, s.drain_ev, by simp [takenBytes, answeredBytes, isRead, State.incoming, State.arriving]⟩

theorem State.perform_queueAccount (a : Action) (s : State) : s.QueueAccount (s.perform a) := by
  cases a with
  | prim p => exact .of_sent _ (s.issue_ev p) (s.issue_rxq p)
  | drain => exact s.drain_queueAccount
  | settle => exact ⟨_, s.settle_ev, by simp [State.perform, takenBytes, answeredBytes, isRead]⟩

theorem State.performAll_queueAccount (as : List Action) (s : State) :
    s.QueueAccount (s.performAll as) := by
  induction as generalizing s with
  | nil => exact .of_same rfl rfl
  | cons a as ih =>
    have fr := s.perform_sameFrame a
    exact (s.perform_queueAccount a).trans fr.cfg fr.env (ih _)

/-- A mode-entry attempt takes the signature read from the head of the queue. -/
theorem State.attemptEntry_queueAccount (s : State) : s.QueueAccount s.attemptEntry.1 := by
  have sent : s.QueueAccount (s.emit s.cfg.opcBridgeReset) := .of_sent [_] rfl rfl
  exact sent.trans rfl rfl (.of_collect (State.readSignature_ev _) (List.take_append_drop _ _))

theorem State.enterWithin_queueAccount (k : Nat) (s : State) :
    s.QueueAccount (s.enterWithin k) := by
  induction k generalizing s with
  | zero => exact .of_same rfl rfl
  | succ k ih =>
    have attempt := s.attemptEntry_queueAccount
    unfold State.enterWithin
    split
    · exact attempt.trans rfl rfl (.of_same rfl rfl)
    · exact attempt.trans rfl rfl (ih _)

/-- An operation accounts for every byte of the queue. -/
theorem Effect.queueAccount {s t : State} (e : Effect s t) : s.QueueAccount t := by
  cases e with
  | primitive p _ _ => exact s.perform_queueAccount (.prim p)
  | entry _ => exact s.enterWithin_queueAccount _
  | busMode _ =>
    have sent : s.QueueAccount (s.emit s.cfg.opcSelTwoWire) := .of_sent [_] rfl rfl
    exact sent.trans rfl rfl ((State.drain_queueAccount _).trans rfl rfl (.of_same rfl rfl))
  | powerOn _ => exact .of_sent [_] rfl rfl
  | powerOff _ => exact .of_sent [_] rfl rfl
  | abandoned _ => exact .of_same rfl rfl
  | compared v => exact .of_same rfl rfl
  | expansion as rs _ _ =>
    have fr := s.performAll_sameFrame as
    exact (s.performAll_queueAccount as).trans fr.cfg fr.env (.of_same rfl rfl)
  | collection as n f _ _ _ =>
    have fr := s.performAll_sameFrame as
    refine (s.performAll_queueAccount as).trans fr.cfg fr.env ?_
    rcases (s.performAll as).deliver_collect_cases f n with ⟨-, e⟩ | ⟨-, e⟩ <;> rw [e]
    · exact .of_collect rfl (List.take_append_drop _ _)
    · exact .of_collect rfl (List.append_nil _)

/-- Settles O59: an operation accounts for the queue and nothing arrives by itself, or the command
is an arrival and there is no new event. -/
theorem queueLosesOnlyWhatReadsTake : Obligations.QueueLosesOnlyWhatReadsTake := by
  intro s t hst
  rcases step_effect hst with ⟨e, ha⟩ | rfl
  · obtain ⟨es, hev, hq⟩ := e.queueAccount
    exact ⟨es, hev, by simpa [ha] using hq⟩
  · exact ⟨[], by simp, by simp [State.arrive, takenBytes, answeredBytes]⟩

end Sys2Proof.Machine
end

section
/-! ### Programs of primitives (41_primitives R130) -/

namespace Sys2Proof.Machine

/-- A primitive does not look at the commands still to come. -/
theorem State.issue_withCommands (p : Prim) (cs : List Command) (s : State) :
    ({ s with commands := cs } : State).issue p = { s.issue p with commands := cs } := by
  apply State.eq_of_fields <;> simp

/-- The step of a primitive at the head of the list, in `Ready` and not desynchronized. -/
theorem step_primCommand (p : Prim) (cs : List Command) {s : State} (hs : s.session = .ready)
    (hd : s.desync = false) :
    step { s with commands := .operation p.toInstr :: cs } =
      .next { s.issue p with commands := cs } := by
  rw [step_operation rfl, exec_toInstr, stepPrim_next]
  exact ⟨hs, hd, (s.issue_withCommands p cs).symm⟩

/-- A program of primitives, handed over one by one, is their expansion (30_encoding R93). -/
theorem run_primCommands (ps : List Prim) (rest : List Command) {s : State}
    (hs : s.session = .ready) (hd : s.desync = false) :
    run ps.length { s with commands := primCommands ps ++ rest } =
      .next { s.performAll (ps.map .prim) with commands := rest } := by
  induction ps generalizing s with
  | nil => rfl
  | cons p ps ih =>
    have first := step_primCommand p (primCommands ps ++ rest) hs hd
    exact (run_succ_of_next first).trans (ih (by simpa using hs) (by simpa using hd))

/-! ### What the monitor admits (10_state R27, R28) -/

/-- The monitor along a list of primitives: the phase it ends in, or `none` once a `V` cell was met.
-/
def monitorRun (c : Config) (ph : Phase) (ps : List Prim) : Option Phase :=
  ps.foldlM (monitorNext c) ph

@[simp] theorem monitorRun_nil (c : Config) (ph : Phase) : monitorRun c ph [] = some ph := rfl

@[simp] theorem monitorRun_cons (c : Config) (ph : Phase) (p : Prim) (ps : List Prim) :
    monitorRun c ph (p :: ps) = (monitorNext c ph p).bind fun q => monitorRun c q ps := rfl

@[simp] theorem monitorRun_append (c : Config) (ph : Phase) (ps qs : List Prim) :
    monitorRun c ph (ps ++ qs) = (monitorRun c ph ps).bind fun q => monitorRun c q qs := by
  simp [monitorRun, List.foldlM_append]

theorem State.complete_iff {s : State} :
    s.complete = true ↔ s.viol = false ∧ s.desync = false ∧ s.phase = .busIdle := by
  simp [State.complete, and_assoc]

/-- A program of primitives is complete exactly if the monitor runs along it into `BusIdle`: a `V`
cell on the way sets the violation flag for good. -/
theorem State.complete_performAll_prims (ps : List Prim) {s : State} (hd : s.desync = false)
    (hv : s.viol = false) :
    (s.performAll (ps.map .prim)).complete = true ↔
      monitorRun s.cfg s.phase ps = some .busIdle := by
  induction ps generalizing s with
  | nil => simp [State.complete_iff, hd, hv]
  | cons p ps ih =>
    have first : s.performAll ((p :: ps).map .prim) = (s.issue p).performAll (ps.map .prim) := rfl
    rw [first, monitorRun_cons]
    cases hm : monitorNext s.cfg s.phase p with
    | none =>
      have stuck := State.performAll_viol (ps.map .prim) (s := s.issue p) (by simp [hm])
      simp [State.complete_iff, stuck]
    | some ph =>
      rw [ih (by simpa using hd) (by simp [hv, hm])]
      simp [hm]

/-- The two control bytes differ in their low bit (30_encoding R90). -/
theorem ctrlR_ne_ctrlW (c : Config) : c.ctrlR ≠ c.ctrlW := by
  intro h
  have low : (c.devAddr7 ++ c.rwRead).getLsbD 0 = (c.devAddr7 ++ ~~~c.rwRead).getLsbD 0 :=
    congrArg (fun b : Byte => b.getLsbD 0) h
  simp only [BitVec.getLsbD_append] at low
  simp at low

/-! #### Transactions are admitted -/

theorem monitorRun_writes (c : Config) (bs : List Byte) :
    monitorRun c .writeSeg (bs.map .write) = some .writeSeg := by
  induction bs with
  | nil => rfl
  | cons b bs ih => simpa [monitorNext] using ih

theorem monitorRun_readAcks (c : Config) (n : Nat) :
    monitorRun c .readSeg (List.replicate n .readAck) = some .readSeg := by
  induction n with
  | zero => rfl
  | succ n ih => simpa [List.replicate_succ, monitorNext] using ih

theorem monitorNext_start {c : Config} {ph : Phase} (h : ph.mayStart = true) :
    monitorNext c ph .start = some .started := by
  have hph : ph = .busIdle ∨ ph = .writeSeg := by simpa [Phase.mayStart] using h
  rcases hph with rfl | rfl <;> rfl

@[simp] theorem monitorNext_ctrlW (c : Config) :
    monitorNext c .started (.write c.ctrlW) = some .writeSeg := by simp [monitorNext]

@[simp] theorem monitorNext_ctrlR (c : Config) :
    monitorNext c .started (.write c.ctrlR) = some .readSeg := by
  simp [monitorNext, ctrlR_ne_ctrlW c]

@[simp] theorem monitorNext_readNack (c : Config) :
    monitorNext c .readSeg .readNack = some .readDone := rfl

theorem monitorRun_writeSegment {c : Config} {ph : Phase} (h : ph.mayStart = true)
    (bs : List Byte) : monitorRun c ph (writeSegment c bs) = some .writeSeg := by
  simp [writeSegment, monitorNext_start h, monitorRun_writes]

theorem monitorRun_readSegment {c : Config} {ph : Phase} (h : ph.mayStart = true) (n : Nat) :
    monitorRun c ph (readSegment c n) = some .readDone := by
  simp [readSegment, monitorNext_start h, monitorRun_readAcks]

/-- After any number of write segments another START is legal. -/
theorem monitorRun_writeSegments {c : Config} {ph : Phase} (h : ph.mayStart = true)
    (segs : List (List Byte)) :
    ∃ q, monitorRun c ph (segs.flatMap (writeSegment c)) = some q ∧ q.mayStart = true := by
  induction segs generalizing ph with
  | nil => exact ⟨ph, rfl, h⟩
  | cons bs segs ih =>
    simpa [monitorRun_writeSegment h] using ih (ph := .writeSeg) rfl

theorem monitorRun_transaction {c : Config} {ps : List Prim} (h : IsTransaction c ps) :
    monitorRun c .busIdle ps = some .busIdle := by
  obtain ⟨segs, last⟩ := h
  obtain ⟨q, hq, hs⟩ := monitorRun_writeSegments (c := c) (ph := .busIdle) rfl segs
  rcases last with ⟨bs, rfl⟩ | ⟨n, rfl⟩
  · simp [hq, monitorRun_writeSegment hs, monitorNext]
  · simp [hq, monitorRun_readSegment hs, monitorNext]

theorem monitorRun_transactions {c : Config} {ts : List (List Prim)}
    (h : ∀ x ∈ ts, IsTransaction c x) : monitorRun c .busIdle ts.flatten = some .busIdle := by
  induction ts with
  | nil => rfl
  | cons x ts ih =>
    obtain ⟨hx, hts⟩ := List.forall_mem_cons.1 h
    simpa [monitorRun_transaction hx] using ih hts

/-! #### Nothing else is admitted -/

/-- A concatenation of words of the grammar `Transaction` (R28). -/
def AreTransactions (c : Config) (ps : List Prim) : Prop :=
  ∃ ts : List (List Prim), (∀ x ∈ ts, IsTransaction c x) ∧ ps = ts.flatten

theorem AreTransactions.append {c : Config} {ps qs : List Prim} (h : AreTransactions c ps)
    (k : IsTransaction c qs) : AreTransactions c (ps ++ qs) := by
  obtain ⟨ts, hts, rfl⟩ := h
  refine ⟨ts ++ [qs], fun x hx => ?_, by simp⟩
  rcases List.mem_append.1 hx with hx | hx
  · exact hts x hx
  · exact List.mem_singleton.1 hx ▸ k

/-- What the monitor can have read when it stands in a phase: whole transactions, then of the one in
progress some whole write segments and as much of the next segment as the phase tells (R27). -/
inductive ReadUpTo (c : Config) : Phase → List Prim → Prop
  | busIdle {done : List Prim} (h : AreTransactions c done) : ReadUpTo c .busIdle done
  | started {done : List Prim} (h : AreTransactions c done) (segs : List (List Byte)) :
    ReadUpTo c .started (done ++ (segs.flatMap (writeSegment c) ++ [.start]))
  | writeSeg {done : List Prim} (h : AreTransactions c done) (segs : List (List Byte))
    (bs : List Byte) :
    ReadUpTo c .writeSeg (done ++ (segs.flatMap (writeSegment c) ++ writeSegment c bs))
  | readSeg {done : List Prim} (h : AreTransactions c done) (segs : List (List Byte)) (n : Nat) :
    ReadUpTo c .readSeg (done ++ (segs.flatMap (writeSegment c) ++
      ([.start, .write c.ctrlR] ++ List.replicate n .readAck)))
  | readDone {done : List Prim} (h : AreTransactions c done) (segs : List (List Byte)) (n : Nat) :
    ReadUpTo c .readDone (done ++ (segs.flatMap (writeSegment c) ++ readSegment c n))

/-- Every move of the monitor that is no `V` cell extends the word as its grammar allows. -/
theorem ReadUpTo.snoc {c : Config} {ph q : Phase} {ps : List Prim} {p : Prim}
    (h : ReadUpTo c ph ps) (hm : monitorNext c ph p = some q) : ReadUpTo c q (ps ++ [p]) := by
  cases h with
  | busIdle h =>
    cases p with
    | start => cases hm; exact .started h []
    | write b => cases hm
    | readAck => cases hm
    | readNack => cases hm
    | stop => cases hm
  | started h segs =>
    cases p with
    | write b =>
      simp only [monitorNext] at hm
      split_ifs at hm with hw hr
      · cases hm
        simpa [writeSegment, hw] using ReadUpTo.writeSeg h segs []
      · cases hm
        simpa [hr] using ReadUpTo.readSeg h segs 0
    | start => cases hm
    | readAck => cases hm
    | readNack => cases hm
    | stop => cases hm
  | writeSeg h segs bs =>
    cases p with
    | start =>
      cases hm
      simpa using ReadUpTo.started h (segs ++ [bs])
    | write b =>
      cases hm
      simpa [writeSegment] using ReadUpTo.writeSeg h segs (bs ++ [b])
    | stop =>
      cases hm
      simpa using ReadUpTo.busIdle (h.append ⟨segs, Or.inl ⟨bs, rfl⟩⟩)
    | readAck => cases hm
    | readNack => cases hm
  | readSeg h segs n =>
    cases p with
    | readAck =>
      cases hm
      simpa [List.replicate_succ'] using ReadUpTo.readSeg h segs (n + 1)
    | readNack =>
      cases hm
      simpa [readSegment] using ReadUpTo.readDone h segs n
    | start => cases hm
    | write b => cases hm
    | stop => cases hm
  | readDone h segs n =>
    cases p with
    | stop =>
      cases hm
      simpa using ReadUpTo.busIdle (h.append ⟨segs, Or.inr ⟨n, rfl⟩⟩)
    | start => cases hm
    | write b => cases hm
    | readAck => cases hm
    | readNack => cases hm

theorem ReadUpTo.monitorRun {c : Config} {ph q : Phase} {pre ps : List Prim}
    (h : ReadUpTo c ph pre) (hm : monitorRun c ph ps = some q) : ReadUpTo c q (pre ++ ps) := by
  induction ps generalizing ph pre with
  | nil =>
    cases hm
    simpa using h
  | cons p ps ih =>
    rw [monitorRun_cons, Option.bind_eq_some_iff] at hm
    obtain ⟨r, hr, hm⟩ := hm
    simpa using ih (h.snoc hr) hm

/-- The monitor runs from `BusIdle` to `BusIdle` exactly along the concatenations of transactions
(R28). -/
theorem monitorRun_busIdle_iff {c : Config} {ps : List Prim} :
    monitorRun c .busIdle ps = some .busIdle ↔ AreTransactions c ps := by
  constructor
  · intro hm
    have start : ReadUpTo c .busIdle [] := .busIdle ⟨[], by simp, rfl⟩
    cases start.monitorRun hm with
    | busIdle h => exact h
  · rintro ⟨ts, hts, rfl⟩
    exact monitorRun_transactions hts

/-- Settles O8: the program runs as an expansion, which is complete if the monitor runs back into
`BusIdle`. -/
theorem monitorAdmitsExactlyTransactions : Obligations.MonitorAdmitsExactlyTransactions := by
  intro s ps rest hs hd hp hv
  refine ⟨_, run_primCommands ps rest hs hd, ?_⟩
  calc (s.performAll (ps.map .prim)).complete = true
      ↔ monitorRun s.cfg s.phase ps = some .busIdle := State.complete_performAll_prims ps hd hv
    _ ↔ AreTransactions s.cfg ps := by rw [hp, monitorRun_busIdle_iff]

end Sys2Proof.Machine
end

section
/-! ### Reading device memory after a write (20_memory R51) -/

namespace Sys2Proof.Machine

/-- What is put before a memory leaves every other address alone. -/
theorem Memory.read_put_other {a x : Nat} (h : x ≠ a) (b : Byte) (m : List Host.Cell) :
    Memory.read (Memory.put a b m) x = Memory.read m x := by
  unfold Memory.put
  split
  · rfl
  · simp [Memory.read, h]

/-- A cell put before a memory that lists no such address reads as put, also when it is left out. -/
theorem Memory.read_put_same {a : Nat} {m : List Host.Cell} (h : ∀ y ∈ m, y.1 ≠ a) (b : Byte) :
    Memory.read (Memory.put a b m) a = b := by
  unfold Memory.put
  split
  · next hb => rw [Memory.read_unlisted h, hb]
  · simp [Memory.read]

/-- A write leaves every other address alone, in canonical form or not. -/
theorem Memory.read_write_other {a x : Nat} (h : x ≠ a) (b : Byte) (m : List Host.Cell) :
    Memory.read (Memory.write m a b) x = Memory.read m x := by
  induction m with
  | nil => exact Memory.read_put_other h b []
  | cons y m ih =>
    obtain ⟨k, v⟩ := y
    unfold Memory.write
    split_ifs with hlt heq
    · exact Memory.read_put_other h b _
    · subst heq
      rw [Memory.read_put_other h]
      simp [Memory.read, h]
    · simp [Memory.read, ih]

/-- In canonical form no cell past the one at `k` lists `k` or anything below. -/
theorem Memory.wf_tail_ne {k a : Nat} {v : Byte} {m : List Host.Cell}
    (h : Memory.wf ((k, v) :: m)) (ha : a ≤ k) : ∀ y ∈ m, y.1 ≠ a := by
  intro y hy
  have hlt : k < y.1 := Memory.wf_head_lt h hy
  omega

/-- In canonical form the written address reads the written byte. -/
theorem Memory.read_write_same {m : List Host.Cell} (h : Memory.wf m) (a : Nat) (b : Byte) :
    Memory.read (Memory.write m a b) a = b := by
  induction m with
  | nil => exact Memory.read_put_same (fun _ hy => absurd hy List.not_mem_nil) b
  | cons y m ih =>
    obtain ⟨k, v⟩ := y
    unfold Memory.write
    split_ifs with hlt heq
    · refine Memory.read_put_same (List.forall_mem_cons.2 ⟨?_, ?_⟩) b
      · exact Nat.ne_of_gt hlt
      · exact Memory.wf_tail_ne h (Nat.le_of_lt hlt)
    · exact Memory.read_put_same (Memory.wf_tail_ne h (Nat.le_of_eq heq)) b
    · simp [Memory.read, heq, ih (Memory.wf_tail h)]

/-- Settles O57: the frame holds in any form, and canonical form leaves no second cell to read at
the written address. -/
theorem deviceMemoryReadAfterWrite : Obligations.DeviceMemoryReadAfterWrite := by
  intro m a x b h
  split
  · next hx => rw [hx, Memory.read_write_same h]
  · next hx => rw [Memory.read_write_other hx]

end Sys2Proof.Machine
end

section
/-! ### What one event does to the device's memory and cursor (95_test_vectors section 4) -/

namespace Sys2Proof.Machine

@[simp] theorem Reference.onNack_mem (r : Reference) : r.onNack.mem = r.mem := by
  unfold Reference.onNack; split <;> rfl

@[simp] theorem Reference.onNack_cur (r : Reference) : r.onNack.cur = r.cur := by
  unfold Reference.onNack; split <;> rfl

@[simp] theorem Reference.onRead_mem (r : Reference) : r.onRead.1.mem = r.mem := by
  unfold Reference.onRead; split <;> rfl

theorem Reference.onRead_cur (r : Reference) :
    r.onRead.1.cur = r.cur ∨ r.onRead.1.cur = (r.cur + 1) % addressSpace := by
  unfold Reference.onRead
  split
  · exact Or.inr rfl
  all_goals exact Or.inl rfl

@[simp] theorem Reference.onBridge_mem (c : Config) (b : Byte) (r : Reference) :
    (r.onBridge c b).1.mem = r.mem := by
  unfold Reference.onBridge; split_ifs <;> rfl

@[simp] theorem Reference.onBridge_cur (c : Config) (b : Byte) (r : Reference) :
    (r.onBridge c b).1.cur = r.cur := by
  unfold Reference.onBridge; split_ifs <;> rfl

/-- What an opcode of two-wire mode can leave of `r`: its memory and cursor, the cursor one byte on
after a read, or an abort of the transaction in flight. -/
def Reference.AfterOpcode (r q : Reference) : Prop :=
  (q.mem = r.mem ∧ (q.cur = r.cur ∨ q.cur = (r.cur + 1) % addressSpace)) ∨
    (r.inFlight = true ∧ q = r.abort)

theorem Reference.AfterOpcode.of_same {r q : Reference} (hm : q.mem = r.mem) (hc : q.cur = r.cur) :
    r.AfterOpcode q := Or.inl ⟨hm, Or.inl hc⟩

theorem Reference.onPowerOff_afterOpcode (r : Reference) : r.AfterOpcode r.onPowerOff := by
  unfold Reference.onPowerOff
  split
  · next hf => exact Or.inr ⟨hf, rfl⟩
  · exact .of_same rfl rfl

/-- Of the opcodes of two-wire mode, only a read moves the cursor and only power-off can touch
memory. -/
theorem Reference.onTwoWire_afterOpcode (c : Config) (b : Byte) (r : Reference) :
    r.AfterOpcode (r.onTwoWire c b).1 := by
  unfold Reference.onTwoWire
  split
  · exact .of_same rfl rfl
  split
  · exact .of_same rfl rfl
  split
  · exact .of_same rfl rfl
  split
  · exact Or.inl ⟨r.onRead_mem, r.onRead_cur⟩
  split
  · exact .of_same rfl rfl
  split
  · exact .of_same r.onNack_mem r.onNack_cur
  split
  · exact .of_same rfl rfl
  split
  · exact r.onPowerOff_afterOpcode
  · exact .of_same rfl rfl

/-! ### The memory stays in canonical form and the cursor inside the device (20_memory R51) -/

/-- What `Env.DeviceWf` asks of the reference device. -/
def Reference.DeviceWf (r : Reference) : Prop := Memory.wf r.mem ∧ r.cur < addressSpace

theorem Reference.DeviceWf.of_same {r q : Reference} (h : r.DeviceWf) (hm : q.mem = r.mem)
    (hc : q.cur = r.cur) : q.DeviceWf := by
  unfold Reference.DeviceWf
  rw [hm, hc]
  exact h

theorem Reference.AfterOpcode.deviceWf {r q : Reference} (ha : r.AfterOpcode q)
    (h : r.DeviceWf) : q.DeviceWf := by
  obtain ⟨hmem, hcur⟩ := h
  rcases ha with ⟨hm, hc | hc⟩ | ⟨-, rfl⟩
  · exact .of_same ⟨hmem, hcur⟩ hm hc
  · refine ⟨hm ▸ hmem, ?_⟩
    rw [hc]
    exact Nat.mod_lt _ (by decide)
  · exact Reference.abort_wf hmem

theorem Reference.onPayload_deviceWf (c : Config) (b : Byte) {r : Reference} (h : r.DeviceWf) :
    (r.onPayload c b).1.DeviceWf := by
  obtain ⟨hmem, hcur⟩ := h
  have hw := Reference.deviceWrite_wf (c := c) (b := b) (r := { r with expectPayload := false })
    hmem hcur
  unfold Reference.onPayload
  split <;> next e => rwa [e] at hw

theorem Reference.onTx_deviceWf (c : Config) (b : Byte) {r : Reference} (h : r.DeviceWf) :
    (r.onTx c b).1.DeviceWf := by
  unfold Reference.onTx
  split
  · exact h.of_same (r.onBridge_mem c b) (r.onBridge_cur c b)
  · exact h.of_same (r.onBridge_mem c b) (r.onBridge_cur c b)
  · split
    · exact Reference.onPayload_deviceWf c b h
    · exact (r.onTwoWire_afterOpcode c b).deviceWf h

theorem Reference.observe_deviceWf (c : Config) (e : Event) {r : Reference} (h : r.DeviceWf) :
    (r.observe c e).DeviceWf := by
  cases e with
  | tx b => exact (Reference.onTx_deviceWf c b h).of_same rfl rfl
  | drain bs => exact h
  | collect bs ok => exact h
  | settle => exact h

theorem Reference.replay_deviceWf (c : Config) (ev : List Event) {r : Reference} (h : r.DeviceWf) :
    (r.replay c ev).DeviceWf := by
  induction ev generalizing r with
  | nil => exact h
  | cons e ev ih => exact ih (Reference.observe_deviceWf c e h)

/-- A well-formed environment shows a canonical device memory after any history. -/
theorem State.deviceMemory_wf {s : State} (h : s.env.DeviceWf) : Memory.wf s.deviceMemory := by
  unfold State.deviceMemory
  split
  · exact Memory.wf_nil
  · exact Memory.wf_nil
  · next r hr =>
    rw [hr] at h
    exact (Reference.replay_deviceWf s.cfg s.ev h).1

/-- Settles O56: a step leaves the environment's start as it is, and every history keeps the memory
canonical. -/
theorem deviceMemoryStaysCanonical : Obligations.DeviceMemoryStaysCanonical := by
  intro s t h hst
  obtain ⟨-, -, -, -, henv, -⟩ := historyAndStickyFlagsOnlyGrow s t hst
  exact ⟨State.deviceMemory_wf h, State.deviceMemory_wf (henv ▸ h)⟩

end Sys2Proof.Machine
end

section
/-! ### Rows outside an aborted transaction (20_memory R58, 70_reset R274, log entry 20) -/

namespace Sys2Proof.Machine

/-- The row an offset into it was added to is the high byte of the address. -/
theorem highByte_rowAddress (row : Byte) {i : Nat} (h : i < rowSize) :
    highByte (row.toNat * rowSize + i) = row := by
  have hi : i < 256 := h
  have hrow : (row.toNat * 256 + i) / 256 = row.toNat := by omega
  simp [highByte, hrow]

/-- Writes that all miss an address leave it alone. -/
theorem Memory.read_writes_other {f : Nat → Byte} {g : Nat → Nat} {is : List Nat} {a : Nat}
    (h : ∀ i ∈ is, a ≠ g i) (m : List Host.Cell) :
    Memory.read (is.foldl (fun m i => Memory.write m (g i) (f (g i))) m) a = Memory.read m a := by
  induction is generalizing m with
  | nil => rfl
  | cons i is ih =>
    obtain ⟨hi, his⟩ := List.forall_mem_cons.1 h
    rw [List.foldl_cons, ih his, Memory.read_write_other hi]

theorem Memory.read_fillRow_other {a : Nat} {row : Byte} (h : highByte a ≠ row) (f : Nat → Byte)
    (m : List Host.Cell) : Memory.read (Memory.fillRow f row m) a = Memory.read m a := by
  refine Memory.read_writes_other (g := fun i => row.toNat * rowSize + i) ?_ m
  rintro i hi rfl
  exact h (highByte_rowAddress row (List.mem_range.1 hi))

theorem Memory.read_fillRows_other {a : Nat} {rows : List Byte} (h : highByte a ∉ rows)
    (f : Nat → Byte) (m : List Host.Cell) :
    Memory.read (Memory.fillRows f rows m) a = Memory.read m a := by
  induction rows generalizing m with
  | nil => rw [Memory.fillRows_nil]
  | cons row rows ih =>
    obtain ⟨hrow, hrows⟩ := List.ne_and_not_mem_of_not_mem_cons h
    rw [Memory.fillRows_cons, ih hrows, Memory.read_fillRow_other hrow]

/-- An abort reaches only the rows of the transaction in flight. -/
theorem Reference.read_abort_other {r : Reference} {a : Nat} (h : highByte a ∉ r.rows) :
    Memory.read r.abort.mem a = Memory.read r.mem a := Memory.read_fillRows_other h _ _

theorem Reference.read_sessionEnded_other {r : Reference} {a : Nat} (isOpen : Bool)
    (h : highByte a ∉ r.rows) :
    Memory.read (r.sessionEnded isOpen).mem a = Memory.read r.mem a := by
  unfold Reference.sessionEnded
  split
  · exact Reference.read_abort_other h
  · rfl

/-- Whatever byte is sent while no payload is expected, device memory stays or the transaction in
flight is aborted. -/
theorem Reference.onTx_mem_cases (c : Config) (b : Byte) {r : Reference}
    (h : r.expectPayload = false) :
    (r.onTx c b).1.mem = r.mem ∨ (r.inFlight = true ∧ (r.onTx c b).1.mem = r.abort.mem) := by
  unfold Reference.onTx
  split
  · exact Or.inl (r.onBridge_mem c b)
  · exact Or.inl (r.onBridge_mem c b)
  · rw [h]
    rcases r.onTwoWire_afterOpcode c b with ⟨hm, -⟩ | ⟨hf, ha⟩
    · exact Or.inl hm
    · exact Or.inr ⟨hf, congrArg Reference.mem ha⟩

/-- Device memory after one more byte sent. -/
theorem State.deviceMemory_snoc_tx {s t : State} {r : Reference} {b : Byte}
    (he : s.env = .reference r) (ht : t.env = s.env) (hc : t.cfg = s.cfg)
    (hev : t.ev = s.ev ++ [.tx b]) :
    t.deviceMemory = ((r.replay s.cfg s.ev).onTx s.cfg b).1.mem := by
  simp [State.deviceMemory, ht, he, hc, hev, Reference.replay, Reference.observe]

/-- Settles O60: both ends of the session leave device memory as it is or abort the transaction in
flight, which reaches only its own rows. -/
theorem abortLeavesOtherRowsAlone : Obligations.AbortLeavesOtherRowsAlone := by
  intro s r rx he hp
  have hmem : s.deviceMemory = (r.replay s.cfg s.ev).mem := by simp [State.deviceMemory, he]
  have hrows : s.rowsInFlight = (r.replay s.cfg s.ev).rows := by simp [State.rowsInFlight, he]
  have hfly : s.deviceInFlight = (r.replay s.cfg s.ev).inFlight := by
    simp [State.deviceInFlight, he]
  rw [hmem, hrows, hfly]
  refine ⟨fun a _ ha => ?reopened, fun hs => ?poweredOff⟩
  case reopened =>
    have hre : (s.reestablish rx).deviceMemory =
        ((r.replay s.cfg s.ev).sessionEnded s.isOpen).mem := by
      simp [State.reestablish, State.deviceMemory, he, Env.after, State.reset, Reference.replay]
    rw [hre, Reference.read_sessionEnded_other _ ha]
  case poweredOff =>
    refine ⟨(s.emit s.cfg.opcPwrOff).goTo .closed, State.inSession_here hs _, ?_⟩
    have ht : ((s.emit s.cfg.opcPwrOff).goTo .closed).deviceMemory =
        ((r.replay s.cfg s.ev).onTx s.cfg s.cfg.opcPwrOff).1.mem :=
      State.deviceMemory_snoc_tx he rfl rfl rfl
    rw [ht]
    rcases Reference.onTx_mem_cases s.cfg s.cfg.opcPwrOff hp with hm | ⟨hf, hm⟩ <;> rw [hm]
    · exact ⟨fun _ => rfl, fun _ _ _ => rfl⟩
    · exact ⟨fun hn => by simp [hf] at hn, fun a _ ha => Reference.read_abort_other ha⟩

end Sys2Proof.Machine
end

section
/-! ### Nothing received shows in what is emitted (20_memory R61) -/

namespace Sys2Proof.Machine

/-- Two states agree on all that decides what is emitted: session, desynchronization and parameters.
-/
structure State.Alike (s1 s2 : State) : Prop where
  session : s1.session = s2.session
  desync : s1.desync = s2.desync
  cfg : s1.cfg = s2.cfg

/-- If the first answer is a next state, so is the second, and both have transmitted the same bytes
since `s1` and `s2`. -/
def EmitsAlike (s1 s2 : State) (k1 k2 : Result) : Prop :=
  ∀ t1, k1 = .next t1 → ∃ t2 bs, k2 = .next t2 ∧ t1.tx = s1.tx ++ bs ∧ t2.tx = s2.tx ++ bs

theorem EmitsAlike.next {s1 s2 t1 t2 : State} {bs : List Byte} (h1 : t1.tx = s1.tx ++ bs)
    (h2 : t2.tx = s2.tx ++ bs) : EmitsAlike s1 s2 (.next t1) (.next t2) := by
  rintro u hu
  cases hu
  exact ⟨t2, bs, rfl, h1, h2⟩

/-- Neither next state has transmitted anything. -/
theorem EmitsAlike.silent {s1 s2 t1 t2 : State} (h1 : t1.tx = s1.tx) (h2 : t2.tx = s2.tx) :
    EmitsAlike s1 s2 (.next t1) (.next t2) :=
  .next (bs := []) (by simp [h1]) (by simp [h2])

theorem EmitsAlike.refused {s1 s2 : State} (r : Refusal) (k2 : Result) :
    EmitsAlike s1 s2 (.refused r) k2 := fun _ h => by cases h

theorem EmitsAlike.inSession {s1 s2 : State} (a : s1.Alike s2) {x : Session} {k1 k2 : Result}
    (h : s1.session = x → EmitsAlike s1 s2 k1 k2) :
    EmitsAlike s1 s2 (s1.inSession x k1) (s2.inSession x k2) := by
  intro t1 ht
  obtain ⟨hs, hk⟩ := State.inSession_next.1 ht
  rw [State.inSession_here (a.session ▸ hs)]
  exact h hs t1 hk

theorem EmitsAlike.whenReady {s1 s2 : State} (a : s1.Alike s2) {k1 k2 : Result}
    (h : EmitsAlike s1 s2 k1 k2) : EmitsAlike s1 s2 (s1.whenReady k1) (s2.whenReady k2) := by
  intro t1 ht
  obtain ⟨hs, hd, hk⟩ := State.whenReady_next.1 ht
  rw [State.whenReady_ready (a.session ▸ hs) (a.desync ▸ hd)]
  exact h t1 hk

theorem EmitsAlike.withOperands {s1 s2 : State} (ok : Bool) {k1 k2 : Result}
    (h : EmitsAlike s1 s2 k1 k2) : EmitsAlike s1 s2 (withOperands ok k1) (withOperands ok k2) := by
  cases ok with
  | true => exact h
  | false => exact .refused _ _

/-- One expansion from either state transmits the same bytes. -/
theorem EmitsAlike.expansion {s1 s2 t1 t2 : State} (a : s1.Alike s2) (as : List Action)
    (h1 : t1.tx = (s1.performAll as).tx) (h2 : t2.tx = (s2.performAll as).tx) :
    EmitsAlike s1 s2 (.next t1) (.next t2) :=
  .next (h1.trans (s1.performAll_tx as)) (by rw [h2, s2.performAll_tx as, a.cfg])

/-! #### Opcode-bearing operations -/

theorem stepPrim_emitsAlike {s1 s2 : State} (a : s1.Alike s2) (p : Prim) :
    EmitsAlike s1 s2 (stepPrim p s1) (stepPrim p s2) :=
  .whenReady a (.expansion a [.prim p] rfl rfl)

/-- Past mode entry an operation emits by session, desynchronization and parameters alone; mode
entry, whose retries depend on what is read, is refused there. -/
theorem exec_emitsAlike {s1 s2 : State} (a : s1.Alike s2) (hs : s1.session ≠ .idle) (i : Instr) :
    EmitsAlike s1 s2 (exec i s1) (exec i s2) := by
  cases i with
  | start => exact stepPrim_emitsAlike a .start
  | write b => exact stepPrim_emitsAlike a (.write b)
  | readAck => exact stepPrim_emitsAlike a .readAck
  | readNack => exact stepPrim_emitsAlike a .readNack
  | stop => exact stepPrim_emitsAlike a .stop
  | configurePowerOn =>
    refine .inSession a fun _ => .next (bs := [s1.cfg.opcPwrOn]) ?_ ?_ <;>
      simp [State.tx_eq, a.cfg]
  | configurePowerOff =>
    refine .inSession a fun _ => .next (bs := [s1.cfg.opcPwrOff]) ?_ ?_ <;>
      simp [State.tx_eq, a.cfg]
  | enterBridgeMode => exact .inSession a fun h => absurd h hs
  | selectBusMode =>
    refine .inSession a fun _ => .next (bs := [s1.cfg.opcSelTwoWire]) ?_ ?_ <;>
      simp [State.tx_eq, a.cfg]
  | selectSpi => exact .refused _ _
  | selectUart => exact .refused _ _
  | selectOneWire => exact .refused _ _
  | selectRawWire => exact .refused _ _
  | deviceReset => exact .refused _ _
  | selfTest => exact .refused _ _

/-! #### Operations with no opcode -/

/-- A collect and the handing over of its outcome transmit nothing. -/
theorem State.deliver_collect_tx (f : List Byte → Reply) (n : Nat) (s : State) :
    (State.deliver f (s.collect n)).tx = s.tx := by
  rcases s.deliver_collect_cases f n with ⟨-, e⟩ | ⟨-, e⟩ <;> simp [e, State.tx_eq]

/-- What `PAGEWR` comes to is settled by operands and parameters: refused, rejected, or one
expansion. -/
theorem State.pageWrite_plan (c : Config) (hi lo : Byte) (d : List Byte) :
    (∀ s : State, s.cfg = c → s.pageWrite hi lo d = .refused) ∨
    (∀ s : State, s.cfg = c → s.pageWrite hi lo d = .rejected) ∨
    ∃ as, ∀ s : State, s.cfg = c → s.pageWrite hi lo d = .committed (s.performAll as) := by
  unfold State.pageWrite
  split_ifs
  · exact Or.inr (Or.inr ⟨pagewrActions c hi lo d, by rintro s rfl; rfl⟩)
  · exact Or.inr (Or.inl fun _ _ => rfl)
  · exact Or.inl fun _ _ => rfl

theorem callPagewr_emitsAlike {s1 s2 : State} (a : s1.Alike s2) (hi lo : Byte) (d : List Byte) :
    EmitsAlike s1 s2 (callPagewr hi lo d s1) (callPagewr hi lo d s2) := by
  refine .whenReady a ?_
  rcases State.pageWrite_plan s2.cfg hi lo d with e | e | ⟨as, e⟩ <;> rw [e s1 a.cfg, e s2 rfl]
  · exact .refused _ _
  · exact .silent rfl rfl
  · exact .expansion a as rfl rfl

/-- The page writer's loop follows a plan that no state takes part in: the templates it expands and
the progress it ends with depend on the parameters alone. -/
theorem writeChunks_plan (c : Config) (k : Nat) (w : WriteProgress) :
    ∃ plan : Option (WriteProgress × List Action), ∀ s : State, s.cfg = c →
      writeChunks k w s = plan.map fun x => (x.1, s.performAll x.2) := by
  induction k generalizing w with
  | zero => exact ⟨some (w, []), fun _ _ => rfl⟩
  | succ k ih =>
    unfold writeChunks
    split_ifs with hdone hend
    · exact ⟨some (w, []), fun _ _ => rfl⟩
    · exact ⟨some (w.reporting w.exhausted, []), fun _ _ => rfl⟩
    rcases State.pageWrite_plan c (.ofNat 8 w.hi) (.ofNat 8 w.lo)
      (w.rest.take (chunkLength w.rest.length w.lo)) with e | e | ⟨as, e⟩
    · exact ⟨none, fun s hs => by simp [e s hs]⟩
    · exact (ih _).imp fun plan hplan s hs => by
        simp only [e s hs]
        exact hplan s hs
    · obtain ⟨plan, hplan⟩ := ih ((w.advance (chunkLength w.rest.length w.lo)).commit
        (chunkLength w.rest.length w.lo))
      refine ⟨plan.map fun x => (x.1, as ++ x.2), fun s hs => ?_⟩
      have hcfg : (s.performAll as).cfg = c := (s.performAll_sameFrame as).cfg.trans hs
      simp only [e s hs, hplan _ hcfg, Option.map_map, Function.comp_def, State.performAll_append]

theorem callWritePages_emitsAlike {s1 s2 : State} (a : s1.Alike s2) (data : List Byte)
    (hi lo : Byte) :
    EmitsAlike s1 s2 (callWritePages data hi lo s1) (callWritePages data hi lo s2) := by
  refine .whenReady a ?_
  split
  · exact .silent rfl rfl
  · obtain ⟨plan, hplan⟩ := writeChunks_plan s2.cfg data.length (.start data hi lo)
    rw [hplan s1 a.cfg, hplan s2 rfl]
    cases plan with
    | none => exact .refused _ _
    | some x => exact .expansion a x.2 rfl rfl

theorem callReadBytes_emitsAlike {s1 s2 : State} (a : s1.Alike s2) (hi lo : Byte) (n : Nat) :
    EmitsAlike s1 s2 (callReadBytes hi lo n s1) (callReadBytes hi lo n s2) := by
  refine .whenReady a ?_
  split
  · refine .expansion a (ptrsetActions s1.cfg hi lo ++ [.drain]) ?_ ?_
    · rw [State.performAll_append]; rfl
    · rw [State.performAll_append, a.cfg]; rfl
  · rw [readBytes_expansion, readBytes_expansion, ← a.cfg]
    exact .expansion a _ (State.deliver_collect_tx _ _ _) (State.deliver_collect_tx _ _ _)

theorem callAbandon_emitsAlike {s1 s2 : State} (a : s1.Alike s2) :
    EmitsAlike s1 s2 (callAbandon s1) (callAbandon s2) := by
  unfold callAbandon
  rw [← a.session]
  split
  · exact .silent rfl rfl
  · exact .refused _ _

theorem runCall_emitsAlike {s1 s2 : State} (a : s1.Alike s2) (c : Call) :
    EmitsAlike s1 s2 (runCall c s1) (runCall c s2) := by
  cases c with
  | drain => exact .whenReady a (.expansion a [.drain] rfl rfl)
  | collect n =>
    exact .whenReady a (.withOperands _ (.silent (State.deliver_collect_tx .collected n s1)
      (State.deliver_collect_tx .collected n s2)))
  | settle => exact .whenReady a (.expansion a [.settle] rfl rfl)
  | ptrset hi lo =>
    exact .whenReady a (.expansion a (ptrsetActions s1.cfg hi lo) rfl (by rw [a.cfg]; rfl))
  | pagewr hi lo d => exact callPagewr_emitsAlike a hi lo d
  | readseq n =>
    exact .whenReady a (.withOperands _
      (.expansion a (readseqActions s1.cfg n) rfl (by rw [a.cfg]; rfl)))
  | writePages d hi lo => exact callWritePages_emitsAlike a d hi lo
  | readBytes hi lo n => exact callReadBytes_emitsAlike a hi lo n
  | compare e x => exact .silent rfl rfl
  | abandon => exact callAbandon_emitsAlike a

/-- Settles O49: the two states take the same command, and what it emits is settled by what they
agree on. -/
theorem emissionIgnoresReception : Obligations.EmissionIgnoresReception := by
  intro s1 s2 t1 hs hidle hd hc hcmd hst
  have popped (rest : List Command) :
      State.Alike { s1 with commands := rest } { s2 with commands := rest } := ⟨hs, hd, hc⟩
  suffices EmitsAlike s1 s2 (step s1) (step s2) from this t1 hst
  rcases hcs : s1.commands with _ | ⟨c, rest⟩
  · rw [step_nothing hcs]
    exact .refused _ _
  have hcs2 : s2.commands = c :: rest := hcmd ▸ hcs
  cases c with
  | operation i =>
    rw [step_operation hcs, step_operation hcs2]
    exact exec_emitsAlike (popped rest) hidle i
  | encoded bs =>
    cases hdec : decodeOne s1.cfg s1.session.table bs with
    | ok i =>
      rw [step_encoded_ok hcs hdec, step_encoded_ok hcs2 (by rw [← hc, ← hs, hdec])]
      exact exec_emitsAlike (popped rest) hidle i
    | error e =>
      rw [step_encoded_error hcs hdec]
      exact fun _ h => by cases h
  | call c =>
    rw [step_call hcs, step_call hcs2]
    exact runCall_emitsAlike (popped rest) c
  | arrive bs =>
    rw [step_arrive hcs, step_arrive hcs2]
    exact .silent rfl rfl

end Sys2Proof.Machine
end

section
/-! ### The decoder and the encoder are inverse (30_encoding R80 to R86) -/

namespace Sys2Proof.Machine

/-- Distinct opcodes differ whichever of the two the decoder tests first (00_scope R9). -/
theorem differ_of_nodup {opcodes : List Byte} (h : opcodes.Nodup) :
    opcodes.Pairwise fun a b => a ≠ b ∧ b ≠ a := h.imp fun ne => ⟨ne, ne.symm⟩

/-- Settles O9: no opcode is taken for one tested before it, and where `OPC_READ` is followed by a
handshake, `OPC_NACK` is not `OPC_ACK`. -/
theorem decodeInvertsEncode : Obligations.DecodeInvertsEncode := by
  intro c i rest
  obtain ⟨twoWire, bridge, -⟩ := c.valid
  replace twoWire := differ_of_nodup twoWire
  replace bridge := differ_of_nodup bridge
  simp only [Parameters.twoWireOpcodes, Parameters.bridgeOpcodes, List.pairwise_cons,
    List.forall_mem_cons] at twoWire bridge
  cases i with
  | write b => simp [decodeHead, Instr.table, encode, decodeTwoWire, twoWire, decodePayload]
  | readAck => simp [decodeHead, Instr.table, encode, decodeTwoWire, twoWire, decodeHandshake]
  | readNack => simp [decodeHead, Instr.table, encode, decodeTwoWire, twoWire, decodeHandshake]
  | start | stop | configurePowerOn | configurePowerOff =>
    simp [decodeHead, Instr.table, encode, decodeTwoWire, twoWire]
  | enterBridgeMode | selectBusMode | selectSpi | selectUart | selectOneWire | selectRawWire
  | deviceReset | selfTest => simp [decodeHead, Instr.table, encode, decodeBridge, bridge]

/-- After `OPC_WRITE1` comes one payload byte, whatever it is (R84, R87). -/
theorem decodePayload_eq_ok {bs rest : List Byte} {i : Instr}
    (h : decodePayload bs = .ok (i, rest)) : ∃ b, i = .write b ∧ bs = b :: rest := by
  unfold decodePayload at h
  split at h <;> cases h
  exact ⟨_, rfl, rfl⟩

/-- After `OPC_READ` comes one of the two handshakes (R84, R86). -/
theorem decodeHandshake_eq_ok {c : Config} {bs rest : List Byte} {i : Instr}
    (h : decodeHandshake c bs = .ok (i, rest)) :
    (i = .readAck ∧ bs = c.opcAck :: rest) ∨ (i = .readNack ∧ bs = c.opcNack :: rest) := by
  unfold decodeHandshake at h
  split at h
  · split_ifs at h with hack hnack <;> cases h
    · exact Or.inl ⟨rfl, by rw [hack]⟩
    · exact Or.inr ⟨rfl, by rw [hnack]⟩
  · cases h

/-- What follows the opcode in an encoding is settled by the row the opcode is in (R84). -/
theorem decodeTwoWire_eq_ok {c : Config} {bs rest : List Byte} {i : Instr}
    (h : decodeTwoWire c bs = .ok (i, rest)) : i.table = .twoWire ∧ bs = encode c i ++ rest := by
  unfold decodeTwoWire at h
  split at h
  · cases h
  · split_ifs at h with opcode opcode opcode opcode opcode opcode
    · cases h; exact ⟨rfl, congrArg (· :: rest) opcode⟩
    · cases h; exact ⟨rfl, congrArg (· :: rest) opcode⟩
    · obtain ⟨b, rfl, rfl⟩ := decodePayload_eq_ok h
      exact ⟨rfl, congrArg (· :: b :: rest) opcode⟩
    · rcases decodeHandshake_eq_ok h with ⟨rfl, rfl⟩ | ⟨rfl, rfl⟩
      · exact ⟨rfl, congrArg (· :: c.opcAck :: rest) opcode⟩
      · exact ⟨rfl, congrArg (· :: c.opcNack :: rest) opcode⟩
    · cases h; exact ⟨rfl, congrArg (· :: rest) opcode⟩
    · cases h; exact ⟨rfl, congrArg (· :: rest) opcode⟩

/-- Every bridge-level opcode stands alone, so its byte is all the encoding there is (R82). -/
theorem decodeBridge_eq_ok {c : Config} {bs rest : List Byte} {i : Instr}
    (h : decodeBridge c bs = .ok (i, rest)) : i.table = .bridge ∧ bs = encode c i ++ rest := by
  unfold decodeBridge at h
  split at h
  · cases h
  · split_ifs at h with opcode opcode opcode opcode opcode opcode opcode opcode <;> cases h <;>
      exact ⟨rfl, congrArg (· :: rest) opcode⟩

/-- Settles O12: one inversion of the decoder per table. -/
theorem decoderAcceptsOnlyEncodings : Obligations.DecoderAcceptsOnlyEncodings := by
  intro c t bs rest i h
  cases t with
  | twoWire => exact decodeTwoWire_eq_ok h
  | bridge => exact decodeBridge_eq_ok h

/-! ### Streams of operations (30_encoding R85) -/

/-- The stream decoder takes the operation at the head and goes on behind it. -/
theorem decodeUpTo_cons {c : Config} {t : OpTable} {k : Nat} {bs rest : List Byte} {i : Instr}
    {is : List Instr} (head : decodeHead c t bs = .ok (i, rest))
    (tail : decodeUpTo c t k rest = .ok is) : decodeUpTo c t (k + 1) bs = .ok (i :: is) := by
  cases bs with
  | nil => cases t <;> cases head
  | cons b bs => simp [decodeUpTo, head, tail]

/-- Any bound that the stream's length does not exceed is enough, since no encoding is empty. -/
theorem decodeUpTo_encodeAll {c : Config} {t : OpTable} {is : List Instr}
    (table : ∀ i ∈ is, i.table = t) {k : Nat} (bound : (encodeAll c is).length ≤ k) :
    decodeUpTo c t k (encodeAll c is) = .ok is := by
  induction is generalizing k with
  | nil => cases k <;> rfl
  | cons i is ih =>
    obtain ⟨rfl, tables⟩ := List.forall_mem_cons.1 table
    have bytes : encodeAll c (i :: is) = encode c i ++ encodeAll c is := rfl
    have nonempty : 0 < (encode c i).length := List.length_pos_of_ne_nil (encode_ne_nil c i)
    rw [bytes, List.length_append] at bound
    obtain ⟨k, rfl⟩ : ∃ l, k = l + 1 := ⟨k - 1, by omega⟩
    exact decodeUpTo_cons (decodeInvertsEncode c i _) (ih tables (by omega))

/-- Settles O10: the stream's own length is such a bound. -/
theorem streamDecodesToItsOperations : Obligations.StreamDecodesToItsOperations :=
  fun _ _ _ table => decodeUpTo_encodeAll table le_rfl

/-- Settles O11: `dec` is a left inverse of `enc` on the two-wire table. -/
theorem encodingOfPrimitivesIsInjective : Obligations.EncodingOfPrimitivesIsInjective := by
  intro c ps qs h
  have decoded (l : List Prim) : decodeStream c .twoWire (encodeAll c (l.map Prim.toInstr)) =
      .ok (l.map Prim.toInstr) := streamDecodesToItsOperations c .twoWire _ (by simp)
  have same : ps.map Prim.toInstr = qs.map Prim.toInstr :=
    Except.ok.inj (by rw [← decoded ps, h, decoded qs])
  exact List.map_injective_iff.2 (fun _ _ => Prim.toInstr_injective) same

/-! ### Words and control bytes (30_encoding R90, R92, R95) -/

/-- A control byte is the device address in bits 7:1 with a bit below it. -/
theorem toNat_append_bit (address : BitVec 7) (bit : BitVec 1) :
    (address ++ bit).toNat = address.toNat * 2 + bit.toNat := by
  rw [BitVec.toNat_append, ← Nat.shiftLeft_add_eq_or_of_lt bit.isLt, Nat.shiftLeft_eq]

/-- Settles O13: a bit's complement is one minus the bit. -/
theorem controlBytesAreAssembled : Obligations.ControlBytesAreAssembled := fun c =>
  ⟨toNat_append_bit _ _, (toNat_append_bit _ _).trans (by rw [BitVec.toNat_not]),
    (ctrlR_ne_ctrlW c).symm⟩

/-- Settles O14, row by row on the default values. -/
theorem tableWordsDecode : Obligations.TableWordsDecode := by
  unfold Obligations.TableWordsDecode
  decide

/-- Settles O15, line by line. -/
theorem textFormNamesEveryOperation : Obligations.TextFormNamesEveryOperation := by
  unfold Obligations.TextFormNamesEveryOperation
  decide

end Sys2Proof.Machine
end

section
/-! ### The word the host places (30_encoding R83, R95, log entries 7 and 8) -/

namespace Sys2Proof.Machine

/-- Bytes read as exactly one operation are its encoding, in its own table. -/
theorem decodeOne_eq_ok {c : Config} {t : OpTable} {bs : List Byte} {i : Instr}
    (h : decodeOne c t bs = .ok i) : i.table = t ∧ bs = encode c i := by
  unfold decodeOne at h
  split at h
  next head =>
    cases h
    simpa using decoderAcceptsOnlyEncodings c t bs [] _ head
  all_goals cases h

/-- What is read when no session state is named is read the same in the state of its row. -/
theorem decodeOne_home {c : Config} {bs : List Byte} {i : Instr}
    (h : decodeInAnySession c bs = some i) : decodeOne c i.home.table bs = .ok i := by
  have atHome {x : Session} (hx : decodeInSession c x bs = some i) :
      decodeOne c i.home.table bs = .ok i := by
    have read := decodeInSession_eq_some.1 hx
    rwa [Instr.home_table, (decodeOne_eq_ok read).1]
  unfold decodeInAnySession at h
  split at h
  next hready => exact atHome (hready.trans h)
  next => exact atHome h

/-- A word placed in the session state of a row, and read there as that row, runs as it. -/
theorem step_withFetchWord {s : State} {nbits w : Nat} {i : Instr}
    (place : placeFor s.cfg s.session (wordBytes nbits w) = i.home)
    (read : decodeOne s.cfg i.home.table (wordBytes nbits w) = .ok i) :
    step (s.withFetchWord nbits w) = exec i { s with session := i.home } := by
  unfold State.withFetchWord
  rw [place]
  exact step_encoded_ok rfl read

/-- Settles O17: either way the word stands in its row's session state, whose table reads it as that
row. -/
theorem placedWordRunsAsDecoded : Obligations.PlacedWordRunsAsDecoded := by
  intro s nbits w hc
  unfold decodeWordIn decodeTableWord
  rw [← hc]
  refine ⟨fun i read home => ?here, fun i elsewhere read => ?elsewhere⟩
  case here =>
    have place : placeFor s.cfg s.session (wordBytes nbits w) = i.home := by
      simp [placeFor, read, home]
    rw [step_withFetchWord place (home ▸ decodeInSession_eq_some.1 read), home]
  case elsewhere =>
    have place : placeFor s.cfg s.session (wordBytes nbits w) = i.home := by
      have notHere : (decodeInSession s.cfg s.session (wordBytes nbits w)).map Instr.home ≠
          some s.session := by simpa using elsewhere
      rw [placeFor, if_neg notHere, read]
    exact step_withFetchWord place (decodeOne_home read)

end Sys2Proof.Machine
end

section
/-! ### Expansions handed over operation by operation (30_encoding R93, 42_transactions R157) -/

namespace Sys2Proof.Machine

/-- An element of a template's expansion as a command of its own. -/
def Action.command : Action → Command
  | .prim p => .operation p.toInstr
  | .drain => .call .drain
  | .settle => .call .settle

/-- No element of an expansion looks at the commands still to come. -/
theorem State.perform_withCommands (a : Action) (cs : List Command) (s : State) :
    ({ s with commands := cs } : State).perform a = { s.perform a with commands := cs } := by
  cases a with
  | prim p => exact s.issue_withCommands p cs
  | drain => rfl
  | settle => rfl

theorem State.performAll_withCommands (as : List Action) (cs : List Command) (s : State) :
    ({ s with commands := cs } : State).performAll as =
      { s.performAll as with commands := cs } := by
  induction as generalizing s with
  | nil => rfl
  | cons a as ih => rw [performAll_cons, perform_withCommands, ih, performAll_cons]

/-- The step of an expansion's element at the head of the list, where templates have one. -/
theorem step_actionCommand (a : Action) (cs : List Command) {s : State} (hs : s.session = .ready)
    (hd : s.desync = false) :
    step { s with commands := a.command :: cs } = .next { s.perform a with commands := cs } := by
  cases a with
  | prim p => exact step_primCommand p cs hs hd
  | drain =>
    rw [Action.command, step_call rfl]
    exact State.whenReady_ready (s := { s with commands := cs }) hs hd _
  | settle =>
    rw [Action.command, step_call rfl]
    exact State.whenReady_ready (s := { s with commands := cs }) hs hd _

/-- An expansion handed over one element at a time does what it does in one step. -/
theorem run_actionCommands (as : List Action) (rest : List Command) {s : State}
    (hs : s.session = .ready) (hd : s.desync = false) :
    run as.length { s with commands := as.map Action.command ++ rest } =
      .next { s.performAll as with commands := rest } := by
  induction as generalizing s with
  | nil => rfl
  | cons a as ih =>
    have frame := s.perform_sameFrame a
    have first := step_actionCommand a (as.map Action.command ++ rest) hs hd
    exact (run_succ_of_next first).trans (ih (frame.session.trans hs) (frame.desync.trans hd))

/-- `PAGEWR` of a page, in `Ready` and not desynchronized, is its expansion and one reply. -/
theorem callPagewr_committed {s : State} {hi lo : Byte} {d : List Byte} (hs : s.session = .ready)
    (hd : s.desync = false) (sized : pageSized d.length = true)
    (fits : fitsRow lo.toNat d.length = true) :
    callPagewr hi lo d s =
      .next ((s.performAll (pagewrActions s.cfg hi lo d)).answer (.page true [])) := by
  simp [callPagewr, State.pageWrite, hs, hd, sized, fits]

/-- Settles O33: a page is committed as its expansion, which runs the same one command at a time. -/
theorem pageWriteRefinesItsExpansion : Obligations.PageWriteRefinesItsExpansion := by
  intro s hi lo d rest hs hd nonempty bounded fits
  refine ⟨{ s.performAll (pagewrActions s.cfg hi lo d) with commands := rest }, ?expansion,
    ?template⟩
  case expansion =>
    have handed := run_actionCommands (pagewrActions s.cfg hi lo d) rest hs hd
    simpa [pagewrActions, ptrsetActions, Action.command, Prim.toInstr, Function.comp_def]
      using handed
  case template =>
    have sized : pageSized d.length = true := by simp [pageSized, nonempty, bounded]
    have fits : fitsRow lo.toNat d.length = true := by simp [fitsRow, fits]
    rw [runCall, callPagewr_committed (s := { s with commands := rest }) hs hd sized fits,
      State.performAll_withCommands]
    rfl

end Sys2Proof.Machine
end

section
/-! ### Mode entry, attempt by attempt (40_session R111, log entry 11) -/

namespace Sys2Proof.Machine

/-- The state before the attempt with index `n`, when none before it ended the loop. -/
def State.afterAttempts (n : Nat) (s : State) : State := (fun t => t.attemptEntry.1)^[n] s

@[simp] theorem State.afterAttempts_zero (s : State) : s.afterAttempts 0 = s := rfl

/-- The attempt that comes last starts where the others ended. -/
theorem State.afterAttempts_succ (n : Nat) (s : State) :
    s.afterAttempts (n + 1) = (s.afterAttempts n).attemptEntry.1 :=
  Function.iterate_succ_apply' _ n s

/-- What the attempt with index `n` reads. -/
def State.entryRead (s : State) (n : Nat) : List Byte := (s.afterAttempts n).attemptEntry.2

/-- What the first `n` attempts read, in order. -/
def State.entryReads (n : Nat) (s : State) : List (List Byte) := (List.range n).map s.entryRead

@[simp] theorem State.entryReads_length (n : Nat) (s : State) : (s.entryReads n).length = n := by
  simp [State.entryReads]

theorem State.entryReads_succ (n : Nat) (s : State) :
    s.entryReads (n + 1) = s.entryReads n ++ [s.entryRead n] := by
  simp [State.entryReads, List.range_succ]

theorem State.entryReads_cons (n : Nat) (s : State) :
    s.entryReads (n + 1) = s.attemptEntry.2 :: s.attemptEntry.1.entryReads n := by
  rw [State.entryReads, List.range_succ_eq_map, List.map_cons, List.map_map]
  rfl

theorem State.take_entryReads {k n : Nat} (h : k ≤ n) (s : State) :
    (s.entryReads n).take k = s.entryReads k := by
  rw [State.entryReads, ← List.map_take, List.take_range, Nat.min_eq_left h]
  rfl

/-- An attempt sends reset-to-bridge, reads the head of what is queued and arrives, and leaves the
rest queued. -/
theorem State.attemptEntry_eq {s : State} {found : List Byte}
    (h : found = s.rxq ++ s.env.answer s.cfg (s.ev ++ [.tx s.cfg.opcBridgeReset])) :
    s.attemptEntry = ({ s with
      ev := s.ev ++ entryEvents s.cfg [found.take s.cfg.sig.length]
      rxq := found.drop s.cfg.sig.length }, found.take s.cfg.sig.length) := by
  subst h
  refine Prod.ext (State.eq_of_fields rfl ?_ rfl rfl rfl rfl rfl rfl rfl rfl) rfl
  simp only [State.attemptEntry_ev, entryEvents, List.flatMap_singleton]
  rfl

/-- Attempts add their events to the history and leave all but it and the queue alone. -/
theorem State.afterAttempts_eq (n : Nat) (s : State) :
    s.afterAttempts n = { s with
      ev := s.ev ++ entryEvents s.cfg (s.entryReads n)
      rxq := (s.afterAttempts n).rxq } := by
  induction n with
  | zero => simp [State.entryReads, entryEvents]
  | succ n ih =>
    have frame : s.afterAttempts (n + 1) = { s.afterAttempts n with
        ev := (s.afterAttempts n).ev ++ entryEvents (s.afterAttempts n).cfg [s.entryRead n]
        rxq := (s.afterAttempts (n + 1)).rxq } := by
      rw [State.afterAttempts_succ, State.entryRead, State.attemptEntry_eq rfl]
    rw [frame, ih]
    simp [State.entryReads_succ, entryEvents]

/-- Each read is the head of the queue the attempt before left, followed by what arrives, and the
rest is the queue this attempt leaves. -/
theorem State.entryReads_account (n : Nat) (s : State) (k : Nat)
    (h : k < (s.entryReads n).length) : ∃ found,
      found = (s.afterAttempts k).rxq ++ s.env.answer s.cfg
        (s.ev ++ entryEvents s.cfg ((s.entryReads n).take k) ++ [.tx s.cfg.opcBridgeReset]) ∧
      (s.entryReads n)[k] = found.take s.cfg.sig.length ∧
      (s.afterAttempts (k + 1)).rxq = found.drop s.cfg.sig.length := by
  have read : (s.entryReads n)[k] = (s.afterAttempts k).attemptEntry.2 := by
    simp [State.entryReads, State.entryRead]
  rw [State.take_entryReads (by simpa using h.le), read, State.afterAttempts_succ,
    State.attemptEntry_eq rfl, State.afterAttempts_eq]
  exact ⟨_, rfl, rfl, rfl⟩

/-- The retry loop ends at the first read that is the signature, or after `k` reads that are not. -/
theorem State.enterWithin_cases (k : Nat) (s : State) :
    (∃ n, n < k ∧ s.entryRead n = s.cfg.sig ∧ s.cfg.sig ∉ s.entryReads n ∧
      s.enterWithin k = ((s.afterAttempts (n + 1)).goTo .bridgeEntered).answer .entered) ∨
    (s.cfg.sig ∉ s.entryReads k ∧
      s.enterWithin k = ((s.afterAttempts k).goTo .closed).raise .modeEntryError) := by
  induction k generalizing s with
  | zero => exact Or.inr ⟨List.not_mem_nil, rfl⟩
  | succ k ih =>
    unfold State.enterWithin
    split
    · next read => exact Or.inl ⟨0, Nat.succ_pos k, read, List.not_mem_nil, rfl⟩
    · next read =>
      have notIn {n : Nat} (h : s.cfg.sig ∉ s.attemptEntry.1.entryReads n) :
          s.cfg.sig ∉ s.entryReads (n + 1) := by
        rw [State.entryReads_cons]
        exact List.not_mem_cons_of_ne_of_not_mem (Ne.symm read) h
      rcases ih s.attemptEntry.1 with ⟨n, hn, hsig, hnot, e⟩ | ⟨hnot, e⟩
      · exact Or.inl ⟨n + 1, Nat.succ_lt_succ hn, hsig, notIn hnot, e⟩
      · exact Or.inr ⟨notIn hnot, e⟩

/-- Settles O18: the loop's two ends, each with as many attempts as reads. -/
theorem enterBridgeModeRetriesUntilSignature :
    Obligations.EnterBridgeModeRetriesUntilSignature := by
  intro s
  refine ⟨fun hs => State.inSession_elsewhere hs _, fun hs => ?_⟩
  have entry : exec .enterBridgeMode s = .next (s.enterWithin s.cfg.nRetry) :=
    State.inSession_here hs _
  rcases s.enterWithin_cases s.cfg.nRetry with ⟨n, hn, hsig, hnot, e⟩ | ⟨hnot, e⟩
  · refine ⟨s.entryReads (n + 1), fun k => (s.afterAttempts k).rxq, true, ?_, rfl,
      s.entryReads_account (n + 1), fun _ => ⟨by simpa using hn, s.entryReads n, ?_, hnot⟩, nofun⟩
    · rw [entry, e, State.afterAttempts_eq, State.entryReads_length]
      rfl
    · rw [State.entryReads_succ, hsig]
  · refine ⟨s.entryReads s.cfg.nRetry, fun k => (s.afterAttempts k).rxq, false, ?_, rfl,
      s.entryReads_account s.cfg.nRetry, nofun, fun _ => ⟨s.entryReads_length _, hnot⟩⟩
    rw [entry, e, State.afterAttempts_eq, State.entryReads_length]
    rfl

/-- Settles O19: there is a first attempt, since `N_RETRY` is at least 1, and it reads the
signature. -/
theorem signatureAtHeadEntersBridgeMode : Obligations.SignatureAtHeadEntersBridgeMode := by
  intro s q hs found
  obtain ⟨-, -, attempts⟩ := s.cfg.valid
  obtain ⟨k, hk⟩ : ∃ k, s.cfg.nRetry = k + 1 := ⟨s.cfg.nRetry - 1, by omega⟩
  have attempt := State.attemptEntry_eq found.symm
  simp only [List.take_left, List.drop_left] at attempt
  have entered : s.enterWithin s.cfg.nRetry =
      (s.attemptEntry.1.goTo .bridgeEntered).answer .entered := by
    rw [hk, State.enterWithin, if_pos (by rw [attempt])]
  calc exec .enterBridgeMode s
      = .next (s.enterWithin s.cfg.nRetry) := State.inSession_here hs _
    _ = _ := by
      rw [entered, attempt]
      simp [entryEvents, State.goTo, State.answer]

end Sys2Proof.Machine
end

section
/-! ### The other session operations, and the closed session (40_session R113 to R117) -/

namespace Sys2Proof.Machine

/-- Settles O20. -/
theorem selectBusModeDrainsBanner : Obligations.SelectBusModeDrainsBanner := by
  refine fun s => ⟨fun hs => (State.inSession_here hs _).trans ?_,
    fun hs => State.inSession_elsewhere hs _⟩
  refine congrArg _ (State.eq_of_fields rfl ?_ rfl rfl rfl rfl rfl rfl rfl rfl)
  simp [State.incoming, State.arriving]

/-- Settles O21. -/
theorem configurePowerSendsOneOpcode : Obligations.ConfigurePowerSendsOneOpcode := fun _ =>
  ⟨fun hs => State.inSession_here hs _, fun hs => State.inSession_here hs _,
    fun hs => State.inSession_elsewhere hs _, fun hs => State.inSession_elsewhere hs _⟩

/-- An operation's encoding is read as exactly that operation, in its own table. -/
theorem decodeOne_encode (c : Config) (i : Instr) :
    decodeOne c i.table (encode c i) = .ok i := by
  have head := decodeInvertsEncode c i []
  rw [List.append_nil] at head
  simp [decodeOne, head]

/-- Settles O22: opcode by opcode the model has the row as R117 gives it, and what decodes is the
row's own encoding. -/
theorem unusedBridgeOpcodesNeverRun : Obligations.UnusedBridgeOpcodesNeverRun := by
  intro s i b h
  have row : exec i s = .refused .neverEmitted ∧ i.table = .bridge ∧ encode s.cfg i = [b] := by
    simp only [List.mem_cons, Prod.mk.injEq, List.not_mem_nil, or_false] at h
    rcases h with ⟨rfl, rfl⟩ | ⟨rfl, rfl⟩ | ⟨rfl, rfl⟩ | ⟨rfl, rfl⟩ | ⟨rfl, rfl⟩ | ⟨rfl, rfl⟩ <;>
      exact ⟨rfl, rfl, rfl⟩
  obtain ⟨refused, table, bytes⟩ := row
  have decoded := decodeOne_encode s.cfg i
  rw [table, bytes] at decoded
  exact ⟨refused, table, bytes, decoded⟩

/-- Settles O23. -/
theorem abandonClosesWithoutTraffic : Obligations.AbandonClosesWithoutTraffic :=
  fun _ => ⟨fun hs => if_pos hs, fun hs => if_neg hs⟩

/-- Of all operations only the verifier has a step in `Closed`. -/
theorem Effect.of_closed {s t : State} (e : Effect s t) (hs : s.session = .closed) :
    ∃ v, t = s.answer (.verdict v) := by
  cases e with
  | compared v => exact ⟨v, rfl⟩
  | primitive _ h _ => simp [hs] at h
  | entry h => simp [hs] at h
  | busMode h => simp [hs] at h
  | powerOn h => simp [hs] at h
  | powerOff h => simp [hs] at h
  | abandoned h => simp [hs] at h
  | expansion _ _ h _ => simp [hs] at h
  | collection _ _ _ h _ _ => simp [hs] at h

/-- Settles O50: a step in `Closed` returns a verdict or is an arrival. -/
theorem closedIsTerminal : Obligations.ClosedIsTerminal := by
  intro s t hs hst
  rcases step_effect hst with ⟨e, -⟩ | rfl
  · obtain ⟨v, rfl⟩ := e.of_closed hs
    exact ⟨[.verdict v], [], by simp [State.answer, State.pop]⟩
  · exact ⟨[], s.arrivingNext, by simp [State.arrive, State.pop]⟩

end Sys2Proof.Machine
end

section
/-! ### The step of each primitive (41_primitives R130 to R136) -/

namespace Sys2Proof.Machine

/-- A primitive appends its encoding to the history and advances the monitor; all else stays. -/
theorem State.issue_eq (p : Prim) (s : State) : s.issue p = { s with
    ev := s.ev ++ (encode s.cfg p.toInstr).map .tx
    phase := (monitorNext s.cfg s.phase p).getD .unknown
    viol := s.viol || (monitorNext s.cfg s.phase p).isNone } := by
  apply State.eq_of_fields <;> simp

/-- In `Ready` and not desynchronized a primitive has a step. -/
theorem exec_toInstr_ready (p : Prim) {s : State} (hs : s.session = .ready)
    (hd : s.desync = false) : exec p.toInstr s = .next (s.issue p) := by
  rw [exec_toInstr, stepPrim, State.whenReady_ready hs hd]

/-- A list of primitives appends its encoding to the history; besides, only the ghost fields move. -/
theorem State.performAll_prims_eq (ps : List Prim) (s : State) :
    ∃ ph v, s.performAll (ps.map .prim) = { s with
      ev := s.ev ++ (encodeAll s.cfg (ps.map Prim.toInstr)).map .tx
      phase := ph
      viol := v } := by
  induction ps generalizing s with
  | nil => exact ⟨s.phase, s.viol, by simp [encodeAll]⟩
  | cons p ps ih =>
    obtain ⟨ph, v, rest⟩ := ih (s.issue p)
    have first : s.performAll ((p :: ps).map .prim) = (s.issue p).performAll (ps.map .prim) := rfl
    refine ⟨ph, v, ?_⟩
    rw [first, rest, State.issue_eq]
    simp [encodeAll]

/-- Settles O7: the run is the program's expansion. -/
theorem primitiveProgramTransmitsItsEncoding :
    Obligations.PrimitiveProgramTransmitsItsEncoding := by
  intro s ps rest hs hd
  obtain ⟨ph, v, expanded⟩ := s.performAll_prims_eq ps
  exact ⟨ph, v, by rw [run_primCommands ps rest hs hd, expanded]⟩

/-! #### One primitive at a time: the column of the monitor's table (10_state R27), cell by cell -/

/-- Settles O1. -/
theorem startEmitsStartOpcode : Obligations.StartEmitsStartOpcode := by
  intro s hs hd
  refine (exec_toInstr_ready .start hs hd).trans ?_
  rw [State.issue_eq]
  cases s.phase <;> rfl

/-- Settles O2: only after `Started` does the payload matter. -/
theorem writeEmitsOpcodeThenPayload : Obligations.WriteEmitsOpcodeThenPayload := by
  intro s b hs hd
  refine (exec_toInstr_ready (.write b) hs hd).trans ?_
  rw [State.issue_eq]
  cases s.phase with
  | started =>
    by_cases toWrite : b = s.cfg.ctrlW
    · simp [monitorNext, Prim.toInstr, encode, toWrite]
    · by_cases toRead : b = s.cfg.ctrlR
      · simp [monitorNext, Prim.toInstr, encode, toRead, ctrlR_ne_ctrlW]
      · simp [monitorNext, Prim.toInstr, encode, toWrite, toRead]
  | busIdle | writeSeg | readSeg | readDone | unknown => simp [monitorNext, Prim.toInstr, encode]

/-- Settles O3. -/
theorem readAckEmitsReadThenAck : Obligations.ReadAckEmitsReadThenAck := by
  intro s hs hd
  refine (exec_toInstr_ready .readAck hs hd).trans ?_
  rw [State.issue_eq]
  cases s.phase <;> rfl

/-- Settles O4. -/
theorem readNackEmitsReadThenNack : Obligations.ReadNackEmitsReadThenNack := by
  intro s hs hd
  refine (exec_toInstr_ready .readNack hs hd).trans ?_
  rw [State.issue_eq]
  cases s.phase <;> rfl

/-- Settles O5. -/
theorem stopEmitsStopOpcode : Obligations.StopEmitsStopOpcode := by
  intro s hs hd
  refine (exec_toInstr_ready .stop hs hd).trans ?_
  rw [State.issue_eq]
  cases s.phase <;> rfl

/-! ### Where a primitive has no step (60_exceptions R230, log entry 9) -/

theorem State.whenReady_elsewhere {s : State} (h : s.session ≠ .ready) (k : Result) :
    s.whenReady k = .refused (.wrongSession s.session) := by simp [State.whenReady, h]

theorem State.whenReady_desynchronized {s : State} (h : s.session = .ready)
    (d : s.desync = true) (k : Result) : s.whenReady k = .refused .desynchronized := by
  simp [State.whenReady, h, d]

/-- Settles O6. -/
theorem primitiveRefusedUnlessReady : Obligations.PrimitiveRefusedUnlessReady := by
  intro s p
  rw [exec_toInstr]
  exact ⟨fun hs => State.whenReady_elsewhere hs _,
    fun hs hd => State.whenReady_desynchronized hs hd _⟩

end Sys2Proof.Machine
end

section
/-! ### Channel actions and templates (42_transactions R150 to R156) -/

namespace Sys2Proof.Machine

/-! #### Channel actions called directly -/

/-- Settles O25. -/
theorem drainEmptiesTheChannel : Obligations.DrainEmptiesTheChannel :=
  fun _ => ⟨fun hs hd => State.whenReady_ready hs hd _, fun h => State.whenReady_refused h _⟩

/-- Settles O27. -/
theorem settleOnlyRecords : Obligations.SettleOnlyRecords :=
  fun _ => ⟨fun hs hd => State.whenReady_ready hs hd _, fun h => State.whenReady_refused h _⟩

/-- `Collect` of at least one byte, in `Ready` and not desynchronized, hands back what it came to. -/
theorem callCollect_ready {s : State} {n : Nat} (hs : s.session = .ready) (hd : s.desync = false)
    (hn : 1 ≤ n) : callCollect n s = .next (State.handBack (s.collect n)) := by
  simp [callCollect, withOperands, hs, hd, hn]

/-- Settles O26: the two ends of the collect, each as it is handed back. -/
theorem collectTakesExactlyOrTimesOut : Obligations.CollectTakesExactlyOrTimesOut := by
  intro s n q hn hq
  replace hq : q = s.incoming := hq
  subst hq
  refine ⟨fun h => State.whenReady_refused h _, fun hs hd enough => ?whole,
    fun hs hd short => ?timeout⟩
  case whole =>
    obtain ⟨-, whole⟩ := (s.collect_cases n).resolve_right fun ⟨short, _⟩ => by omega
    rw [runCall, callCollect_ready hs hd hn, whole]
    rfl
  case timeout =>
    obtain ⟨-, timeout⟩ := (s.collect_cases n).resolve_left fun ⟨enough, _⟩ => by omega
    rw [runCall, callCollect_ready hs hd hn, timeout]
    rfl

/-! #### A run of primitives that the monitor knows to the end (10_state R27) -/

/-- Primitives without a `V` cell append their encoding and move the phase as the monitor does; all
else stays, the violation flag too. -/
theorem State.performAll_prims_of_monitorRun {ps : List Prim} {q : Phase} {s : State}
    (hm : monitorRun s.cfg s.phase ps = some q) :
    s.performAll (ps.map .prim) = { s with
      ev := s.ev ++ (encodeAll s.cfg (ps.map Prim.toInstr)).map .tx
      phase := q } := by
  induction ps generalizing s with
  | nil =>
    cases hm
    simp [encodeAll]
  | cons p ps ih =>
    rw [monitorRun_cons, Option.bind_eq_some_iff] at hm
    obtain ⟨ph, hp, hm⟩ := hm
    have first : s.performAll ((p :: ps).map .prim) = (s.issue p).performAll (ps.map .prim) := rfl
    have rest := ih (s := s.issue p) (by simpa [hp] using hm)
    rw [first, rest, State.issue_eq]
    simp [encodeAll, hp]

/-- Once the monitor has lost track, no primitive is a violation (R27). -/
theorem monitorRun_unknown (c : Config) (ps : List Prim) :
    monitorRun c .unknown ps = some .unknown := by
  induction ps with
  | nil => rfl
  | cons p ps ih => cases p <;> exact ih

/-- A run the monitor admits stays one when the monitor may have lost track before it. -/
theorem monitorRun_ite {c : Config} {ph q : Phase} {ps : List Prim} (b : Bool)
    (hm : monitorRun c ph ps = some q) :
    monitorRun c (if b then ph else .unknown) ps = some (if b then q else .unknown) := by
  cases b
  · exact monitorRun_unknown c ps
  · exact hm

/-- START in any phase: only where it is legal does the monitor follow, and only `Unknown` besides
is no violation (R27, R132). -/
theorem State.issue_start (s : State) : s.issue .start = { s with
    ev := s.ev ++ [.tx s.cfg.opcStart]
    phase := if s.phase.mayStart then .started else .unknown
    viol := s.viol || !(s.phase.mayStart || decide (s.phase = .unknown)) } := by
  rw [State.issue_eq]
  cases s.phase <;> rfl

/-- Primitives that are admitted from a legal START on, in any phase: their encoding is appended, and
START alone decides whether the monitor follows and whether this is a violation. -/
theorem State.performAll_fromStart {ps : List Prim} {q : Phase} (s : State)
    (hm : monitorRun s.cfg .busIdle (.start :: ps) = some q) :
    s.performAll ((.start :: ps).map .prim) = { s with
      ev := s.ev ++ (encodeAll s.cfg ((.start :: ps).map Prim.toInstr)).map .tx
      phase := if s.phase.mayStart then q else .unknown
      viol := s.viol || !(s.phase.mayStart || decide (s.phase = .unknown)) } := by
  have first : s.performAll ((.start :: ps).map .prim) =
      (s.issue .start).performAll (ps.map .prim) := rfl
  have rest : monitorRun s.cfg .started ps = some q := hm
  rw [first, State.issue_start,
    State.performAll_prims_of_monitorRun (monitorRun_ite s.phase.mayStart rest)]
  simp [encodeAll, Prim.toInstr, encode]

/-! #### The templates' bytes -/

/-- `PTRSET` transmits its seven bytes and, where a START is legal, stands in a write segment after
them (R154). -/
theorem State.performAll_ptrset_eq (hi lo : Byte) (s : State) :
    s.performAll (ptrsetActions s.cfg hi lo) = { s with
      ev := s.ev ++ (ptrsetBytes s.cfg hi lo).map .tx
      phase := if s.phase.mayStart then .writeSeg else .unknown
      viol := s.viol || !(s.phase.mayStart || decide (s.phase = .unknown)) } :=
  s.performAll_fromStart (ps := [.write s.cfg.ctrlW, .write hi, .write lo])
    (monitorRun_writeSegment rfl [hi, lo])

/-- Settles O29. -/
theorem ptrsetSendsAddressHighFirst : Obligations.PtrsetSendsAddressHighFirst :=
  fun s hi lo hs hd =>
    (State.whenReady_ready hs hd _).trans (congrArg _ (s.performAll_ptrset_eq hi lo))

/-- The bytes of a page and the STOP after them (R155). -/
theorem encodeAll_writes_stop (c : Config) (d : List Byte) :
    encodeAll c ((d.map Prim.write ++ [Prim.stop]).map Prim.toInstr) =
      dataBytes c d ++ [c.opcStop] := by
  simp [encodeAll, dataBytes, List.flatMap_map, Prim.toInstr, encode]

/-- The whole transaction of a page, in any phase: where a START is legal it ends in `BusIdle`
(R155). -/
theorem State.performAll_pagewr_eq (hi lo : Byte) (d : List Byte) (s : State) :
    s.performAll (pagewrActions s.cfg hi lo d) = { s with
      ev := s.ev ++ (ptrsetBytes s.cfg hi lo).map .tx ++
        [.drain (s.rxq ++ s.env.answer s.cfg (s.ev ++ (ptrsetBytes s.cfg hi lo).map .tx))] ++
        (dataBytes s.cfg d).map .tx ++ [.tx s.cfg.opcStop, .settle]
      rxq := []
      phase := if s.phase.mayStart then .busIdle else .unknown
      viol := s.viol || !(s.phase.mayStart || decide (s.phase = .unknown)) } := by
  have legal : monitorRun s.cfg .writeSeg (d.map .write ++ [.stop]) = some .busIdle := by
    simp [monitorRun_writes, monitorNext]
  have expansion : pagewrActions s.cfg hi lo d = ptrsetActions s.cfg hi lo ++
      (.drain :: ((d.map Prim.write ++ [Prim.stop]).map .prim ++ [.settle])) := by
    simp [pagewrActions, Function.comp_def]
  rw [expansion, performAll_append, performAll_ptrset_eq, performAll_cons, performAll_append,
    State.perform, State.drain,
    performAll_prims_of_monitorRun (monitorRun_ite s.phase.mayStart legal),
    encodeAll_writes_stop]
  simp [State.perform, State.settle, State.record, State.incoming, State.arriving]

/-- A page has 1 to 128 bytes (R31). -/
theorem pageSized_iff {n : Nat} : pageSized n = true ↔ 1 ≤ n ∧ n ≤ 128 := by
  simp [pageSized, pageMax]

/-- A page stays in its row of 256 bytes (R54). -/
theorem fitsRow_iff {lo n : Nat} : fitsRow lo n = true ↔ lo + n ≤ 256 := by
  simp [fitsRow, rowSize]

/-- Settles O30: in its row the page is committed, as the whole transaction. -/
theorem pageWriteSendsWholeTransaction : Obligations.PageWriteSendsWholeTransaction := by
  intro s hi lo d hs hd nonempty bounded fits
  have sized := pageSized_iff.2 ⟨nonempty, bounded⟩
  rw [runCall, callPagewr_committed hs hd sized (fitsRow_iff.2 fits), State.performAll_pagewr_eq]
  rfl

/-- `PAGEWR` of bytes that would cross a row, in `Ready` and not desynchronized, is only reported
(R222). -/
theorem callPagewr_rejected {s : State} {hi lo : Byte} {d : List Byte} (hs : s.session = .ready)
    (hd : s.desync = false) (sized : pageSized d.length = true)
    (crosses : fitsRow lo.toNat d.length = false) :
    callPagewr hi lo d s =
      .next (s.answer (.page false [.pageBoundaryError none hi lo d.length])) := by
  simp [callPagewr, State.pageWrite, report, hs, hd, sized, crosses]

/-- Settles O31: out of its row the page is rejected before anything is sent. -/
theorem rowCrossingPageIsNotTransmitted : Obligations.RowCrossingPageIsNotTransmitted := by
  intro s hi lo d hs hd nonempty bounded crosses
  have sized := pageSized_iff.2 ⟨nonempty, bounded⟩
  have crosses : fitsRow lo.toNat d.length = false := by
    rw [Bool.eq_false_iff, ne_eq, fitsRow_iff]
    omega
  exact callPagewr_rejected hs hd sized crosses

/-- Six bytes stand around the `n - 1` READ_ACK (R156). -/
theorem readseqBytes_length {c : Config} {n : Nat} (hn : 1 ≤ n) :
    (readseqBytes c n).length = 2 * n + 4 := by
  have body : (n - 1) * 2 + 2 = 2 * n := by omega
  simpa [readseqBytes] using body

/-- `READSEQ` is a read segment and the STOP after it (R28, R156). -/
theorem readseqActions_eq (c : Config) (n : Nat) :
    readseqActions c n = (readSegment c (n - 1) ++ [Prim.stop]).map .prim := by
  simp [readseqActions, readSegment]

theorem encodeAll_readSegment_stop (c : Config) (n : Nat) :
    encodeAll c ((readSegment c (n - 1) ++ [Prim.stop]).map Prim.toInstr) = readseqBytes c n := by
  simp [encodeAll, readSegment, readseqBytes, List.flatMap, Prim.toInstr, encode]

/-- `READSEQ` transmits its bytes and, where a START is legal, ends in `BusIdle` (R156). -/
theorem State.performAll_readseq_eq (n : Nat) (s : State) :
    s.performAll (readseqActions s.cfg n) = { s with
      ev := s.ev ++ (readseqBytes s.cfg n).map .tx
      phase := if s.phase.mayStart then .busIdle else .unknown
      viol := s.viol || !(s.phase.mayStart || decide (s.phase = .unknown)) } := by
  have transaction : IsTransaction s.cfg (readSegment s.cfg (n - 1) ++ [.stop]) :=
    ⟨[], .inr ⟨n - 1, rfl⟩⟩
  rw [readseqActions_eq, ← encodeAll_readSegment_stop]
  exact s.performAll_fromStart (monitorRun_transaction transaction)

/-- Settles O32: the operand check, then the whole read transaction. -/
theorem readSequenceEndsWithOneNack : Obligations.ReadSequenceEndsWithOneNack := by
  intro s n hs hd
  have ready : runCall (.readseq n) s =
      withOperands (decide (1 ≤ n)) (.next (s.readseq n)) := State.whenReady_ready hs hd _
  refine ⟨fun empty => ?_, fun nonempty => ⟨readseqBytes_length nonempty, ?_⟩⟩
  · subst empty
    exact ready
  · rw [ready, State.readseq, State.performAll_readseq_eq]
    simp [withOperands, nonempty]

end Sys2Proof.Machine
end

section
/-! ### The page writer (43_pagewriter R170 to R178) -/

namespace Sys2Proof.Machine

/-! #### The length of a chunk (R172) -/

/-- Settles O35: a minimum is one of its three bounds and none of them is exceeded. -/
theorem chunkIsAlwaysAPage : Obligations.ChunkIsAlwaysAPage := by
  intro left lo nonempty low
  simp only [chunkLength, pageMax, rowSize]
  omega

/-- What R172 says of the next chunk at linear address `a`, with bytes left. -/
theorem chunkLength_bounds {rest : List Byte} (left : rest ≠ []) (a : Nat) :
    1 ≤ chunkLength rest.length (a % 256) ∧ chunkLength rest.length (a % 256) ≤ 128 ∧
      chunkLength rest.length (a % 256) ≤ rest.length ∧
      a % 256 + chunkLength rest.length (a % 256) ≤ 256 := by
  obtain ⟨positive, bounded, short, inRow, -⟩ := chunkIsAlwaysAPage rest.length (a % 256)
    (List.length_pos_iff.2 left) (Nat.mod_lt a (by decide))
  exact ⟨positive, bounded, short, inRow⟩

/-- A chunk stays in the address space, because it stays in its row. -/
theorem add_chunkLength_le {a : Nat} {rest : List Byte} (left : rest ≠ []) (inSpace : a < 65536) :
    a + chunkLength rest.length (a % 256) ≤ 65536 := by
  obtain ⟨-, -, -, inRow⟩ := chunkLength_bounds left a
  omega

/-! #### The pages of a buffer (R170, R172, R174, R175) -/

/-- The pages that carry a buffer from a linear address on: there is none once the buffer or the
address space has ended, else the next chunk's, and then the pages of what is left. -/
inductive PagesFrom : Nat → List Byte → List (Nat × List Byte) → Prop
  | done (a : Nat) : PagesFrom a [] []
  | spaceEnded (rest : List Byte) : PagesFrom addressSpace rest []
  | page {a n : Nat} {rest : List Byte} {pages : List (Nat × List Byte)} (left : rest ≠ [])
    (inSpace : a < addressSpace) (length : n = chunkLength rest.length (a % 256))
    (pagesAfter : PagesFrom (a + n) (rest.drop n) pages) :
    PagesFrom a rest ((a, rest.take n) :: pages)

/-- Only an empty buffer has no page, from an address of the device on. -/
theorem PagesFrom.eq_nil_iff {a : Nat} {rest : List Byte} {pages : List (Nat × List Byte)}
    (p : PagesFrom a rest pages) (inSpace : a < 65536) : pages = [] ↔ rest = [] := by
  cases p with
  | done => simp
  | spaceEnded => exact absurd inSpace (lt_irrefl _)
  | page left => simp [left]

/-- Together the pages carry the buffer up to the end of the address space. -/
theorem PagesFrom.data_eq {a : Nat} {rest : List Byte} {pages : List (Nat × List Byte)}
    (p : PagesFrom a rest pages) : pages.flatMap Prod.snd = rest.take (65536 - a) := by
  induction p with
  | done => simp
  | spaceEnded => simp
  | @page a n rest pages left inSpace length _ ih =>
    have inside : a + n ≤ 65536 := length ▸ add_chunkLength_le left inSpace
    have room : 65536 - a = n + (65536 - (a + n)) := by omega
    rw [List.flatMap_cons, ih, room, List.take_add]

/-- Each page starts where the one before it ended, inside the device, and has the chunk's
length. -/
theorem PagesFrom.getElem {a : Nat} {rest : List Byte} {pages : List (Nat × List Byte)}
    (p : PagesFrom a rest pages) (k : Nat) (h : k < pages.length) :
    pages[k].1 = a + ((pages.take k).map (fun q => q.2.length)).sum ∧ pages[k].1 < 65536 ∧
      pages[k].2.length = chunkLength
        (rest.length - ((pages.take k).map (fun q => q.2.length)).sum) (pages[k].1 % 256) := by
  induction p generalizing k with
  | done | spaceEnded => simp at h
  | @page a n rest pages left inSpace length _ ih =>
    obtain ⟨-, -, short, -⟩ := chunkLength_bounds left a
    rw [← length] at short
    cases k with
    | zero => simpa [inSpace, short] using length
    | succ k =>
      obtain ⟨start, inside, size⟩ := ih k (by simpa using h)
      simp only [List.length_drop] at size
      simp only [List.getElem_cons_succ, List.take_succ_cons, List.map_cons, List.sum_cons,
        List.length_take, Nat.min_eq_left short, ← Nat.add_assoc, ← Nat.sub_sub]
      exact ⟨start, inside, size⟩

/-! #### The loop (R170) -/

/-- The expansion of pages one after the other (R93). -/
def pagesActions (c : Config) (pages : List (Nat × List Byte)) : List Action :=
  pages.flatMap fun p => pagewrActions c (highByte p.1) (lowByte p.1) p.2

/-- What is reported of `left` bytes where the address space has room for `room`: one exhaustion if
they do not fit (R175). -/
def spaceErrors (chunks off room left : Nat) : List Err :=
  if room < left then [.addressSpaceExhausted chunks (off + room) (left - room)] else []

/-- A chunk that fits moves offset, room and remainder alike. -/
theorem spaceErrors_chunk {n room left : Nat} (chunks off : Nat) (fits : n ≤ room)
    (short : n ≤ left) :
    spaceErrors chunks (off + n) (room - n) (left - n) = spaceErrors chunks off room left := by
  have offset : off + n + (room - n) = off + room := by omega
  have remainder : left - n - (room - n) = left - room := by omega
  have same : room - n < left - n ↔ room < left := by omega
  simp only [spaceErrors, offset, remainder, same]

/-- A chunk is a page: `PAGEWR` commits it (R172, R177 item 1). -/
theorem State.pageWrite_chunk {a : Nat} {rest : List Byte} (left : rest ≠ []) (s : State) :
    s.pageWrite (highByte a) (lowByte a) (rest.take (chunkLength rest.length (a % 256))) =
      .committed (s.performAll (pagewrActions s.cfg (highByte a) (lowByte a)
        (rest.take (chunkLength rest.length (a % 256))))) := by
  obtain ⟨nonempty, bounded, short, inRow⟩ := chunkLength_bounds left a
  have low : (lowByte a).toNat = a % 256 := by simp [lowByte]
  simp [State.pageWrite, low, Nat.min_eq_left short, pageSized_iff.2 ⟨nonempty, bounded⟩,
    fitsRow_iff.2 inRow]

/-- An address of two bytes is inside the device (R52). -/
theorem lin_lt (hi lo : Byte) : lin hi lo < 65536 := by
  have high : hi.toNat < 256 := hi.isLt
  have low : lo.toNat < 256 := lo.isLt
  simp only [lin]
  omega

/-- The page writer's progress stands at linear address `a` (R174). -/
structure WriteProgress.At (w : WriteProgress) (a : Nat) : Prop where
  hi : w.hi = a / 256
  lo : w.lo = a % 256

theorem WriteProgress.start_at (data : List Byte) (hi lo : Byte) :
    (WriteProgress.start data hi lo).At (lin hi lo) := by
  have low : lo.toNat < 256 := lo.isLt
  constructor <;> simp only [WriteProgress.start, lin] <;> omega

/-- A chunk moves the cursor by linear addition (R174). -/
theorem WriteProgress.At.chunk {w : WriteProgress} {a : Nat} (h : w.At a) (n : Nat) :
    ((w.advance n).commit n).At (a + n) := by
  have linear : w.hi * 256 + w.lo = a := by rw [h.hi, h.lo, Nat.div_add_mod']
  constructor <;> simp only [WriteProgress.advance, WriteProgress.commit, linear]

/-- With nothing left the loop ends, however many turns it has. -/
theorem writeChunks_nothingLeft {w : WriteProgress} (nothing : w.rest = []) (k : Nat) (s : State) :
    writeChunks k w s = some (w, s) := by
  cases k with
  | zero => rfl
  | succ k => rw [writeChunks, if_pos nothing]

/-- With bytes left at the end of the address space the loop reports it and ends (R175). -/
theorem writeChunks_spaceEnded {w : WriteProgress} (stands : w.At 65536) (left : w.rest ≠ [])
    (k : Nat) (s : State) :
    writeChunks (k + 1) w s = some (w.reporting w.exhausted, s) := by
  have ended : 255 < w.hi := by rw [stands.hi]; decide
  rw [writeChunks, if_neg left, if_pos ended]

/-- With bytes left inside the address space the loop commits the next chunk and goes on after it
(R170, R172). -/
theorem writeChunks_chunk {a n : Nat} {w : WriteProgress} (stands : w.At a) (left : w.rest ≠ [])
    (inSpace : a < 65536) (length : n = chunkLength w.rest.length (a % 256)) (k : Nat) (s : State) :
    writeChunks (k + 1) w s = writeChunks k ((w.advance n).commit n)
      (s.performAll (pagewrActions s.cfg (highByte a) (lowByte a) (w.rest.take n))) := by
  have inside : ¬255 < w.hi := by rw [stands.hi]; omega
  have high : BitVec.ofNat 8 w.hi = highByte a := by rw [stands.hi, highByte]
  have low : BitVec.ofNat 8 (a % 256) = lowByte a := BitVec.eq_of_toNat_eq (by simp [lowByte])
  rw [writeChunks, if_neg left, if_neg inside]
  simp only [high, stands.lo, low, State.pageWrite_chunk left, length]

/-- The loop's result from address `a`: the pages of what is left are performed, their bytes are
counted, and what the address space has no room for is reported. -/
def WritesPages (a : Nat) (w : WriteProgress) (s : State)
    (result : Option (WriteProgress × State)) : Prop :=
  ∃ pages w', PagesFrom a w.rest pages ∧
    result = some (w', s.performAll (pagesActions s.cfg pages)) ∧
    w'.written = w.written + min w.rest.length (65536 - a) ∧
    w'.errors = w.errors ++ spaceErrors (w.idx + pages.length) w.off (65536 - a) w.rest.length

theorem WritesPages.nothingLeft {w : WriteProgress} (nothing : w.rest = []) (a : Nat) (s : State) :
    WritesPages a w s (some (w, s)) :=
  ⟨[], w, nothing ▸ .done a, rfl, by simp [nothing], by simp [nothing, spaceErrors]⟩

theorem WritesPages.spaceEnded {w : WriteProgress} (left : w.rest ≠ []) (s : State) :
    WritesPages 65536 w s (some (w.reporting w.exhausted, s)) :=
  ⟨[], w.reporting w.exhausted, .spaceEnded _, rfl, by simp [WriteProgress.reporting],
    by simp [WriteProgress.reporting, WriteProgress.exhausted, report, spaceErrors,
      List.length_pos_iff, left]⟩

/-- A chunk before a result: one page more, its bytes counted (R172, R176). -/
theorem WritesPages.chunk {a n : Nat} {w : WriteProgress} {s : State}
    {result : Option (WriteProgress × State)} (left : w.rest ≠ []) (inSpace : a < 65536)
    (length : n = chunkLength w.rest.length (a % 256))
    (after : WritesPages (a + n) ((w.advance n).commit n)
      (s.performAll (pagewrActions s.cfg (highByte a) (lowByte a) (w.rest.take n))) result) :
    WritesPages a w s result := by
  obtain ⟨-, -, short, -⟩ := chunkLength_bounds left a
  have inside := add_chunkLength_le left inSpace
  rw [← length] at short inside
  obtain ⟨pages, w', pagesAfter, ended, written, errors⟩ := after
  refine ⟨(a, w.rest.take n) :: pages, w', .page left inSpace length pagesAfter, ?_, ?_, ?_⟩
  · rw [ended, (s.performAll_sameFrame _).cfg, ← State.performAll_append]
    rfl
  · rw [written]
    simp only [WriteProgress.advance, WriteProgress.commit, List.length_drop]
    omega
  · rw [errors, ← spaceErrors_chunk _ w.off (n := n) (room := 65536 - a) (by omega) short]
    simp only [WriteProgress.advance, WriteProgress.commit, List.length_drop,
      List.length_cons, Nat.sub_sub, Nat.add_assoc, Nat.add_comm 1]

/-- The loop of R170 with enough turns. -/
theorem writeChunks_writesPages {k a : Nat} {w : WriteProgress} (stands : w.At a)
    (inSpace : a ≤ 65536) (turns : w.rest.length ≤ k) (s : State) :
    WritesPages a w s (writeChunks k w s) := by
  induction k generalizing w a s with
  | zero => exact .nothingLeft (List.length_eq_zero_iff.1 (by omega)) a s
  | succ k ih =>
    by_cases left : w.rest = []
    · rw [writeChunks_nothingLeft left]
      exact .nothingLeft left a s
    rcases inSpace.lt_or_eq with inside | rfl
    · rw [writeChunks_chunk stands left inside rfl]
      obtain ⟨positive, -⟩ := chunkLength_bounds left a
      refine .chunk left inside rfl (ih (stands.chunk _) (add_chunkLength_le left inside) ?_ _)
      simp only [WriteProgress.advance, WriteProgress.commit, List.length_drop]
      omega
    · rw [writeChunks_spaceEnded stands left]
      exact .spaceEnded left s

/-! #### What `writePages` comes to (R170) -/

/-- A buffer no longer than the device, in `Ready` and not desynchronized: its pages are performed,
and their bytes and what did not fit are returned. -/
theorem callWritePages_ready {s : State} {data : List Byte} {hi lo : Byte}
    (hs : s.session = .ready) (hd : s.desync = false) (small : data.length ≤ 65536) :
    ∃ pages, PagesFrom (lin hi lo) data pages ∧
      callWritePages data hi lo s = .next ((s.performAll (pagesActions s.cfg pages)).answer
        (.written (min data.length (65536 - lin hi lo))
          (spaceErrors pages.length 0 (65536 - lin hi lo) data.length))) := by
  obtain ⟨pages, w, chunks, loop, written, errors⟩ :=
    writeChunks_writesPages (WriteProgress.start_at data hi lo) (lin_lt hi lo).le le_rfl s
  simp only [WriteProgress.start, Nat.zero_add, List.nil_append] at chunks loop written errors
  refine ⟨pages, chunks, ?_⟩
  rw [callWritePages, State.whenReady_ready hs hd, if_neg (Nat.not_lt.2 small)]
  simp only [WriteProgress.start, loop, written, errors]

/-- A longer buffer is turned away (R171). -/
theorem callWritePages_oversize {s : State} {data : List Byte} (hi lo : Byte)
    (hs : s.session = .ready) (hd : s.desync = false) (oversize : 65536 < data.length) :
    callWritePages data hi lo s = .next (s.raise (.sourceTooLarge data.length)) := by
  rw [callWritePages, State.whenReady_ready hs hd, if_pos oversize]

/-- A buffer that fits is returned whole, with no error (R176). -/
theorem written_of_fits {room left : Nat} (chunks : Nat) (fits : left ≤ room) :
    Reply.written (min left room) (spaceErrors chunks 0 room left) = .written left [] := by
  rw [Nat.min_eq_left fits, spaceErrors, if_neg (Nat.not_lt.2 fits)]

/-- Of one that does not fit the room is returned, with one exhaustion (R175, R176). -/
theorem written_of_exceeds {room left : Nat} (chunks : Nat) (exceeds : room < left) :
    Reply.written (min left room) (spaceErrors chunks 0 room left) =
      .written room [.addressSpaceExhausted chunks room (left - room)] := by
  rw [Nat.min_eq_right exceeds.le, spaceErrors, if_pos exceeds, Nat.zero_add]

/-- Settles O36: the reply of the whole loop, by whether the buffer fits. -/
theorem writePagesReturnsBytesCommitted : Obligations.WritePagesReturnsBytesCommitted := by
  intro s data hi lo hs hd small
  obtain ⟨pages, -, run⟩ := callWritePages_ready (hi := hi) (lo := lo) hs hd small
  have inSpace := lin_lt hi lo
  refine ⟨_, run, fun fits => ?_, fun exceeds => ⟨pages.length, ?_⟩⟩
  · rw [State.answer_replies, (s.performAll_sameFrame _).replies, written_of_fits _ (by omega)]
  · rw [State.answer_replies, (s.performAll_sameFrame _).replies, written_of_exceeds _ (by omega)]

/-! #### What the pages put on the channel (R155, R177, R273) -/

/-- The whole transaction of a page by its linear address (R155). -/
theorem State.performAll_page_eq (a : Nat) (d : List Byte) (s : State) :
    s.performAll (pagewrActions s.cfg (highByte a) (lowByte a) d) = { s with
      ev := s.ev ++ pageEvents s.cfg a d (s.rxq ++ s.env.answer s.cfg
        (s.ev ++ (ptrsetBytes s.cfg (highByte a) (lowByte a)).map .tx))
      rxq := []
      phase := if s.phase.mayStart then .busIdle else .unknown
      viol := s.viol || !(s.phase.mayStart || decide (s.phase = .unknown)) } := by
  rw [State.performAll_pagewr_eq]
  simp [pageEvents]

theorem State.performAll_pages_cons (p : Nat × List Byte) (pages : List (Nat × List Byte))
    (s : State) : s.performAll (pagesActions s.cfg (p :: pages)) =
      (s.performAll (pagewrActions s.cfg (highByte p.1) (lowByte p.1) p.2)).performAll
        (pagesActions s.cfg pages) :=
  s.performAll_append _ _

/-- The events of pages are their transactions one after the other; the first drain discards what
was queued and arrives, every later one what arrives. -/
theorem State.performAll_pages_ev (pages : List (Nat × List Byte)) (s : State) :
    ∃ drained : List (List Byte), drained.length = pages.length ∧
      (s.performAll (pagesActions s.cfg pages)).ev = s.ev ++
        (pages.zip drained).flatMap (fun x => pageEvents s.cfg x.1.1 x.1.2 x.2) ∧
      ∀ k, ∀ h : k < pages.length, ∀ j : k < drained.length,
        drained[k] = (if k = 0 then s.rxq else []) ++ s.env.answer s.cfg
          (s.ev ++
            ((pages.zip drained).take k).flatMap (fun x => pageEvents s.cfg x.1.1 x.1.2 x.2) ++
            (ptrsetBytes s.cfg (highByte pages[k].1) (lowByte pages[k].1)).map .tx) := by
  induction pages generalizing s with
  | nil => exact ⟨[], rfl, by simp [pagesActions], fun k h => absurd h (Nat.not_lt_zero k)⟩
  | cons p pages ih =>
    obtain ⟨drained, length, events, found⟩ :=
      ih (s.performAll (pagewrActions s.cfg (highByte p.1) (lowByte p.1) p.2))
    rw [State.performAll_page_eq] at events found
    refine ⟨(s.rxq ++ s.env.answer s.cfg
      (s.ev ++ (ptrsetBytes s.cfg (highByte p.1) (lowByte p.1)).map .tx)) :: drained,
      by simp [length], ?_, fun k h j => ?_⟩
    · rw [State.performAll_pages_cons, State.performAll_page_eq, events]
      simp
    · cases k with
      | zero => simp
      | succ k =>
        simpa using found k (by simpa using h) (by simpa using j)

/-- Settles O37: the pages of the loop, with their addresses, lengths and drains. -/
theorem writePagesSendsConsecutivePages : Obligations.WritePagesSendsConsecutivePages := by
  intro s data hi lo hs hd small
  obtain ⟨pages, chunks, run⟩ := callWritePages_ready (hi := hi) (lo := lo) hs hd small
  obtain ⟨drained, length, events, found⟩ := s.performAll_pages_ev pages
  have inSpace := lin_lt hi lo
  refine ⟨_, pages, drained, run, length, events, chunks.data_eq, chunks.getElem, found,
    fun exceeds => ?_⟩
  rw [State.answer_replies, (s.performAll_sameFrame _).replies, written_of_exceeds _ (by omega)]

/-! #### The monitor after the pages (R177 item 6, R275) -/

/-- Between transactions, or with the monitor lost, pages keep queue and monitor (R27). -/
theorem State.performAll_pages_between (pages : List (Nat × List Byte)) {s : State}
    (queue : s.rxq = []) (between : s.phase = .busIdle ∨ s.phase = .unknown) :
    (s.performAll (pagesActions s.cfg pages)).rxq = [] ∧
      (s.performAll (pagesActions s.cfg pages)).phase = s.phase ∧
      (s.performAll (pagesActions s.cfg pages)).viol = s.viol := by
  induction pages generalizing s with
  | nil => exact ⟨queue, rfl, rfl⟩
  | cons p pages ih =>
    have page := s.performAll_page_eq p.1 p.2
    obtain ⟨keptPhase, keptViol⟩ : (if s.phase.mayStart then .busIdle else .unknown) = s.phase ∧
        (s.viol || !(s.phase.mayStart || decide (s.phase = .unknown))) = s.viol := by
      rcases between with e | e <;> simp [e, Phase.mayStart]
    rw [keptPhase, keptViol] at page
    rw [State.performAll_pages_cons, page]
    exact ih rfl between

/-- Pages of any number but none send something, empty the queue, and end where one page ends. -/
theorem State.performAll_pages_monitor {pages : List (Nat × List Byte)} (nonempty : pages ≠ [])
    (s : State) :
    (s.performAll (pagesActions s.cfg pages)).ev ≠ s.ev ∧
      (s.performAll (pagesActions s.cfg pages)).rxq = [] ∧
      (s.performAll (pagesActions s.cfg pages)).phase =
        (if s.phase.mayStart then .busIdle else .unknown) ∧
      (s.performAll (pagesActions s.cfg pages)).viol =
        (s.viol || !(s.phase.mayStart || decide (s.phase = .unknown))) := by
  obtain ⟨p, pages, rfl⟩ := List.exists_cons_of_ne_nil nonempty
  rw [State.performAll_pages_cons, State.performAll_page_eq]
  refine ⟨fun unchanged => ?sent, State.performAll_pages_between pages rfl ?_⟩
  case sent =>
    have grows := (State.performAll_ev_prefix (pagesActions s.cfg pages) _).length_le.trans_eq
      (congrArg List.length unchanged)
    simp [pageEvents] at grows
  · cases s.phase.mayStart <;> simp

/-- Settles O38: pages were performed, or none because the buffer is empty, or the buffer was turned
away. -/
theorem writePagesKeepsTheSession : Obligations.WritePagesKeepsTheSession := by
  intro s t data hi lo run
  obtain ⟨hs, hd, -⟩ := State.whenReady_next.1 (show s.whenReady _ = _ from run)
  by_cases small : data.length ≤ 65536
  · obtain ⟨pages, chunks, ready⟩ := callWritePages_ready (hi := hi) (lo := lo) hs hd small
    obtain rfl := Host.Outcome.next.inj (ready.symm.trans run)
    have frame := s.performAll_sameFrame (pagesActions s.cfg pages)
    have empty := chunks.eq_nil_iff (lin_lt hi lo)
    refine ⟨frame.session, frame.desync, frame.cfg, frame.env, frame.commands,
      ⟨_, congrArg (· ++ _) frame.replies⟩, ?_⟩
    by_cases noPages : pages = []
    · simp [noPages, empty.1 noPages, pagesActions]
    · obtain ⟨sent, monitor⟩ := s.performAll_pages_monitor noPages
      have bytes : ¬(data = [] ∨ 65536 < data.length) :=
        not_or.2 ⟨empty.not.1 noPages, Nat.not_lt.2 small⟩
      exact ⟨fun same => absurd same sent, fun _ => monitor, iff_of_false sent bytes⟩
  · have oversize : 65536 < data.length := Nat.not_le.1 small
    obtain rfl := Host.Outcome.next.inj
      ((callWritePages_oversize hi lo hs hd oversize).symm.trans run)
    exact ⟨rfl, rfl, rfl, rfl, rfl, ⟨_, rfl⟩, fun _ => ⟨rfl, rfl, rfl⟩,
      fun sent => absurd rfl sent, iff_of_true rfl (.inr oversize)⟩

end Sys2Proof.Machine
end

section
/-! ### The bulk reader (44_bulkreader R190 to R198) -/

namespace Sys2Proof.Machine

/-! #### The buffer in what was collected (R192, R197) -/

/-- Of `READ_LEAD` bytes and `n` pairs, the buffer has one byte per pair. -/
theorem readBuffer_length {lead n : Nat} {bs : List Byte} (h : bs.length = lead + 2 * n) :
    (readBuffer lead bs).length = n :=
  deinterleave_length _ n (by simp [h])

/-- Byte `i` of the buffer is the first byte of pair `i` after the `READ_LEAD` bytes. -/
theorem readBuffer_getElem? {lead n : Nat} {bs : List Byte} (h : bs.length = lead + 2 * n)
    (i : Nat) : (readBuffer lead bs)[i]? = bs[lead + 2 * i]? := by
  rw [readBuffer, deinterleave_getElem? _ n (by simp [h]), List.getElem?_drop]

/-! #### What is sent before the collect (R190, R191) -/

/-- Steps 1 and 2: the pointer-set and the drain, in any phase. -/
theorem State.drain_ptrset_eq (hi lo : Byte) (s : State) : (s.ptrset hi lo).drain = { s with
    ev := s.ev ++ (ptrsetBytes s.cfg hi lo).map .tx ++
      [.drain (s.rxq ++ s.env.answer s.cfg (s.ev ++ (ptrsetBytes s.cfg hi lo).map .tx))]
    rxq := []
    phase := if s.phase.mayStart then .writeSeg else .unknown
    viol := s.viol || !(s.phase.mayStart || decide (s.phase = .unknown)) } := by
  rw [State.ptrset, State.performAll_ptrset_eq]
  rfl

/-- Steps 1, 2 and 4: after the pointer-set a START is legal wherever the first one was, so the read
transaction is no violation of its own. -/
theorem State.readseq_drain_ptrset_eq (hi lo : Byte) (n : Nat) (s : State) :
    (s.ptrset hi lo).drain.readseq n = { s with
      ev := s.ev ++ (ptrsetBytes s.cfg hi lo).map .tx ++
        [.drain (s.rxq ++ s.env.answer s.cfg (s.ev ++ (ptrsetBytes s.cfg hi lo).map .tx))] ++
        (readseqBytes s.cfg n).map .tx
      rxq := []
      phase := if s.phase.mayStart then .busIdle else .unknown
      viol := s.viol || !(s.phase.mayStart || decide (s.phase = .unknown)) } := by
  rw [State.readseq, State.performAll_readseq_eq, State.drain_ptrset_eq]
  cases s.phase.mayStart <;> simp [Phase.mayStart]

/-- `readBytes` of at least one byte, in `Ready` and not desynchronized: its templates, then the
collect, whose bytes are handed over as the buffer. -/
theorem callReadBytes_ready {s : State} {n : Nat} (hi lo : Byte) (hs : s.session = .ready)
    (hd : s.desync = false) (hn : 1 ≤ n) :
    callReadBytes hi lo n s =
      .next (State.deliver (fun bs => .buffer (readBuffer s.cfg.readLead bs))
        (((s.ptrset hi lo).drain.readseq n).collect (s.cfg.readLead + 2 * n))) := by
  have cfg : ((s.ptrset hi lo).drain.readseq n).cfg = s.cfg := by
    rw [State.readseq_drain_ptrset_eq]
  rw [callReadBytes, State.whenReady_ready hs hd, if_neg (by omega), State.collectBuffer, cfg]
  rfl

/-- Settles O39: the two ends of the collect after everything is sent; the drain left nothing queued
before it. -/
theorem readBytesCollectsOneBytePerPair : Obligations.ReadBytesCollectsOneBytePerPair := by
  intro s hi lo n ev1 ev2 drained q hs hd hn hev1 hdrained hev2 hq
  subst hev1 hdrained hev2
  have incoming : ((s.ptrset hi lo).drain.readseq n).incoming = q := by
    rw [State.readseq_drain_ptrset_eq]
    exact hq.symm
  have outcome := State.deliver_collect_cases
    (fun bs => .buffer (readBuffer s.cfg.readLead bs)) (s.cfg.readLead + 2 * n)
    ((s.ptrset hi lo).drain.readseq n)
  rw [incoming] at outcome
  rw [runCall, callReadBytes_ready hi lo hs hd hn]
  refine ⟨fun enough => ?whole, fun short => ?timeout⟩
  case whole =>
    obtain ⟨-, whole⟩ := outcome.resolve_right fun ⟨short, _⟩ => by omega
    have taken : (q.take (s.cfg.readLead + 2 * n)).length = s.cfg.readLead + 2 * n := by
      simpa using enough
    refine ⟨readBuffer s.cfg.readLead (q.take (s.cfg.readLead + 2 * n)), ?_,
      readBuffer_length taken, fun i hi => ?_⟩
    · rw [whole, State.readseq_drain_ptrset_eq]
    · rw [readBuffer_getElem? taken, List.getElem?_take_of_lt (by omega)]
  case timeout =>
    obtain ⟨-, timeout⟩ := outcome.resolve_left fun ⟨enough, _⟩ => by omega
    rw [timeout, State.readseq_drain_ptrset_eq]

/-- Settles O40: the pointer-set's write segment is not `BusIdle`, nor is a lost monitor. -/
theorem emptyReadLeavesTransactionOpen : Obligations.EmptyReadLeavesTransactionOpen := by
  intro s hi lo hs hd
  have empty : runCall (.readBytes hi lo 0) s =
      .next ((s.ptrset hi lo).drain.answer (.buffer [])) := State.whenReady_ready hs hd _
  refine ⟨_, empty, ?_, ?_⟩ <;> rw [State.drain_ptrset_eq]
  · rfl
  · cases s.phase.mayStart <;> simp [State.complete]

/-! #### The four steps handed over one by one (R190, R191) -/

/-- The step of a call at the head of the list that comes to an expansion. -/
theorem step_templateCommand {c : Call} {as : List Action} {cs : List Command} {s : State}
    (h : runCall c { s with commands := cs } =
      .next (({ s with commands := cs } : State).performAll as)) :
    step { s with commands := .call c :: cs } = .next { s.performAll as with commands := cs } := by
  rw [step_call rfl, ← State.performAll_withCommands]
  exact h

/-- The step of `PTRSET` at the head of the list, where it has one. -/
theorem step_ptrsetCommand (hi lo : Byte) (cs : List Command) {s : State}
    (hs : s.session = .ready) (hd : s.desync = false) :
    step { s with commands := .call (.ptrset hi lo) :: cs } =
      .next { s.ptrset hi lo with commands := cs } :=
  step_templateCommand (State.whenReady_ready (s := { s with commands := cs }) hs hd _)

/-- The step of `READSEQ` at the head of the list, where it has one. -/
theorem step_readseqCommand {n : Nat} (cs : List Command) {s : State} (hs : s.session = .ready)
    (hd : s.desync = false) (hn : 1 ≤ n) :
    step { s with commands := .call (.readseq n) :: cs } =
      .next { s.readseq n with commands := cs } :=
  step_templateCommand ((State.whenReady_ready (s := { s with commands := cs }) hs hd _).trans
    (if_pos (decide_eq_true hn)))

/-- The step of `Collect` at the head of the list, where it has one. -/
theorem step_collectCommand {n : Nat} (cs : List Command) {s : State} (hs : s.session = .ready)
    (hd : s.desync = false) (hn : 1 ≤ n) :
    step { s with commands := .call (.collect n) :: cs } =
      .next (State.deliver .collected (({ s with commands := cs } : State).collect n)) := by
  rw [step_call rfl]
  exact callCollect_ready hs hd hn

/-- The four steps of `readBytes` run as its templates and the collect. -/
theorem run_readBytesSteps (hi lo : Byte) {n total : Nat} (rest : List Command) {s : State}
    (hs : s.session = .ready) (hd : s.desync = false) (hn : 1 ≤ n) (ht : 1 ≤ total) :
    run 4 { s with commands := [.call (.ptrset hi lo), .call .drain, .call (.readseq n),
        .call (.collect total)] ++ rest } =
      .next (State.deliver .collected
        (({ (s.ptrset hi lo).drain.readseq n with commands := rest } : State).collect total)) := by
  have pointed : s.SameFrame (s.ptrset hi lo) := s.performAll_sameFrame _
  have drained : s.SameFrame (s.ptrset hi lo).drain :=
    pointed.trans (State.perform_sameFrame .drain _)
  have sent : s.SameFrame ((s.ptrset hi lo).drain.readseq n) :=
    drained.trans (State.performAll_sameFrame _ _)
  calc
    _ = run 3 { s.ptrset hi lo with
          commands := .call .drain :: .call (.readseq n) :: .call (.collect total) :: rest } :=
      run_succ_of_next (step_ptrsetCommand hi lo _ hs hd)
    _ = run 2 { (s.ptrset hi lo).drain with
          commands := .call (.readseq n) :: .call (.collect total) :: rest } :=
      run_succ_of_next (step_actionCommand .drain _ (pointed.session.trans hs)
        (pointed.desync.trans hd))
    _ = run 1 { (s.ptrset hi lo).drain.readseq n with
          commands := .call (.collect total) :: rest } :=
      run_succ_of_next (step_readseqCommand _ (drained.session.trans hs)
        (drained.desync.trans hd) hn)
    _ = _ :=
      run_succ_of_next (step_collectCommand rest (sent.session.trans hs)
        (sent.desync.trans hd) ht)

/-- A collect handed over with two different replies differs in the reply alone, and not at all when
it times out. -/
theorem State.deliver_collect_replies (f g : List Byte → Reply) (n : Nat) (s : State) :
    (∃ bs, bs.length = n ∧ (State.deliver f (s.collect n)).replies = s.replies ++ [f bs] ∧
      State.deliver g (s.collect n) =
        { State.deliver f (s.collect n) with replies := s.replies ++ [g bs] }) ∨
    ∃ e, (State.deliver f (s.collect n)).replies = s.replies ++ [.raised e] ∧
      State.deliver g (s.collect n) = State.deliver f (s.collect n) := by
  rcases s.collect_cases n with ⟨enough, e⟩ | ⟨-, e⟩ <;> rw [e]
  · exact .inl ⟨s.incoming.take n, by simpa using enough, rfl, rfl⟩
  · exact .inr ⟨_, rfl, rfl⟩

/-- Settles O41: one collect ends both runs; its bytes are handed over as they are, or as the buffer. -/
theorem readBytesRefinesItsSteps : Obligations.ReadBytesRefinesItsSteps := by
  intro s hi lo n rest hs hd hn
  refine ⟨_, _, run_readBytesSteps hi lo rest hs hd hn (by omega),
    callReadBytes_ready hi lo hs hd hn, ?_⟩
  have sent : (({ s with commands := rest } : State).ptrset hi lo).drain.readseq n =
      { (s.ptrset hi lo).drain.readseq n with commands := rest } := by
    simp only [State.readseq_drain_ptrset_eq]
  have replies : ((s.ptrset hi lo).drain.readseq n).replies = s.replies := by
    rw [State.readseq_drain_ptrset_eq]
  rw [sent, ← replies]
  rcases State.deliver_collect_replies .collected
      (fun bs => .buffer (readBuffer s.cfg.readLead bs)) (s.cfg.readLead + 2 * n)
      { (s.ptrset hi lo).drain.readseq n with commands := rest } with
    ⟨bs, length, collected, same⟩ | ⟨e, raised, same⟩
  · exact .inl ⟨bs, _, collected, same, readBuffer_length length,
      fun i _ => readBuffer_getElem? length i⟩
  · exact .inr ⟨e, raised, same⟩

end Sys2Proof.Machine
end

section
/-! ### The verifier (45_verifier R210 to R213) -/

namespace Sys2Proof.Machine

/-- The scan of two equal lists finds nothing. -/
theorem firstMismatch_self (i : Nat) (bs : List Byte) : firstMismatch i bs bs = .agree := by
  induction bs generalizing i with
  | nil => rfl
  | cons b bs ih => rw [firstMismatch, if_pos rfl, ih]

/-- The scan of different lists of one length, counting from `i`, stops at the first index where they
differ. -/
theorem firstMismatch_of_ne {e a : List Byte} (length : e.length = a.length) (ne : e ≠ a) (i : Nat) :
    ∃ k, ∃ h : k < e.length, ∃ j : k < a.length,
      firstMismatch i e a = .mismatch (i + k) e[k] a[k] ∧ e[k] ≠ a[k] ∧ e.take k = a.take k := by
  induction e generalizing a i with
  | nil => exact absurd (List.length_eq_zero_iff.1 length.symm).symm ne
  | cons x e ih =>
    obtain ⟨y, a, rfl⟩ := List.exists_cons_of_length_eq_add_one length.symm
    by_cases head : x = y
    · subst head
      obtain ⟨k, h, j, found, differ, before⟩ :=
        ih (Nat.succ.inj length) (fun same => ne (same ▸ rfl)) (i + 1)
      refine ⟨k + 1, Nat.succ_lt_succ h, Nat.succ_lt_succ j, ?_, differ, congrArg (x :: ·) before⟩
      rw [firstMismatch, if_pos rfl, found, Nat.add_right_comm]
      rfl
    · exact ⟨0, Nat.succ_pos _, Nat.succ_pos _, if_neg head, head, rfl⟩

/-- Settles O42: the lengths are tested first, and the scan counts from 0. -/
theorem compareFindsFirstMismatch : Obligations.CompareFindsFirstMismatch := by
  intro s e a
  refine ⟨compareBytes e a, rfl, fun lengths => if_neg lengths, ?agree, ?differ⟩
  case agree =>
    rintro rfl
    rw [compareBytes, if_pos rfl, firstMismatch_self]
  case differ =>
    intro length ne
    rw [compareBytes, if_pos length]
    simpa using firstMismatch_of_ne length ne 0

end Sys2Proof.Machine
end

section
/-! ### Several bytes of device memory (20_memory R51) -/

namespace Sys2Proof.Machine

/-- The bytes of a buffer stored from address `a` on. -/
def Memory.writeFrom : List Host.Cell → Nat → List Byte → List Host.Cell
  | m, _, [] => m
  | m, a, b :: d => Memory.writeFrom (Memory.write m a b) (a + 1) d

/-- The `n` bytes from address `a` on. -/
def Memory.readFrom (m : List Host.Cell) (a n : Nat) : List Byte :=
  (List.range' a n).map (Memory.read m)

/-- Where one part of a buffer ends, the next is stored. -/
theorem Memory.writeFrom_append (m : List Host.Cell) (a : Nat) (d e : List Byte) :
    Memory.writeFrom m a (d ++ e) =
      Memory.writeFrom (Memory.writeFrom m a d) (a + d.length) e := by
  induction d generalizing m a with
  | nil => rfl
  | cons b d ih =>
    simp only [List.cons_append, Memory.writeFrom, ih, List.length_cons, Nat.add_assoc,
      Nat.add_comm 1]

/-- Below where a buffer is stored nothing changes. -/
theorem Memory.read_writeFrom_below {x a : Nat} (below : x < a) (m : List Host.Cell)
    (d : List Byte) : Memory.read (Memory.writeFrom m a d) x = Memory.read m x := by
  induction d generalizing m a with
  | nil => rfl
  | cons b d ih => rw [Memory.writeFrom, ih (by omega), Memory.read_write_other (by omega)]

/-- A buffer stored inside the device reads back. -/
theorem Memory.readFrom_writeFrom {m : List Host.Cell} {a : Nat} {d : List Byte} (wf : Memory.wf m)
    (fits : a + d.length ≤ 65536) :
    Memory.readFrom (Memory.writeFrom m a d) a d.length = d := by
  induction d generalizing m a with
  | nil => rfl
  | cons b d ih =>
    rw [List.length_cons] at fits
    have first : Memory.read (Memory.writeFrom (Memory.write m a b) (a + 1) d) a = b := by
      rw [Memory.read_writeFrom_below (Nat.lt_succ_self a), Memory.read_write_same wf]
    have others := ih (Memory.wf_write (b := b) wf (show a < 65536 by omega))
      (show a + 1 + d.length ≤ 65536 by omega)
    rw [Memory.readFrom] at others ⊢
    rw [List.length_cons, List.range'_succ, List.map_cons, Memory.writeFrom, first, others]

/-- One byte more is read at the end. -/
theorem Memory.readFrom_succ (m : List Host.Cell) (a n : Nat) :
    Memory.readFrom m a (n + 1) = Memory.readFrom m a n ++ [Memory.read m (a + n)] := by
  simp [Memory.readFrom, List.range'_1_concat]

end Sys2Proof.Machine
end

section
/-! ### The reference device along the primitives (95_test_vectors section 4, log entry 14) -/

namespace Sys2Proof.Machine

/-- The address bytes of an address of the device make up that address (20_memory R52). -/
theorem lin_highByte_lowByte {a : Nat} (inSpace : a < 65536) :
    lin (highByte a) (lowByte a) = a := by
  simp only [lin, highByte, lowByte, BitVec.toNat_ofNat]
  omega

/-- Short of the end of its row the cursor goes to the next address. -/
theorem nextInRow_eq_succ {a : Nat} (inRow : a % 256 + 1 < 256) : nextInRow a = a + 1 := by
  simp only [nextInRow, rowSize]
  omega

theorem Reference.replay_append (c : Config) (r : Reference) (es fs : List Event) :
    r.replay c (es ++ fs) = (r.replay c es).replay c fs := List.foldl_append

@[simp] theorem Reference.replay_nil (c : Config) (r : Reference) : r.replay c [] = r := rfl

@[simp] theorem Reference.replay_cons (c : Config) (r : Reference) (e : Event) (es : List Event) :
    r.replay c (e :: es) = (r.observe c e).replay c es := rfl

/-- The bridge's replies to a read: each data byte, then the reply to its handshake (44_bulkreader
R192). -/
def readReplies (bs : List Byte) : List Byte := bs.flatMap (fun b => [b, 0x01])

/-- A pair per byte. -/
theorem length_readReplies_readFrom (m : List Host.Cell) (a n : Nat) :
    (readReplies (Memory.readFrom m a n)).length = 2 * n := by
  simp [readReplies, Memory.readFrom, Function.comp_def, Nat.mul_comm]

/-- They de-interleave to the bytes read. -/
theorem deinterleave_readReplies (bs : List Byte) : deinterleave (readReplies bs) = bs := by
  induction bs with
  | nil => rfl
  | cons b bs ih => exact congrArg (b :: ·) ih

/-- A bridge in two-wire mode that expects an opcode, with no aborted transaction behind its device,
which stands at `st` with cursor `a` and memory `m`; the replies `q` wait to be read. -/
structure Reference.Stands (r : Reference) (st : DeviceState) (a : Nat) (m : List Host.Cell)
    (q : List Byte) : Prop where
  mode : r.mode = .twoWire
  opcode : r.expectPayload = false
  answers : r.lost = false
  st : r.st = st
  cur : r.cur = a
  mem : r.mem = m
  pending : r.pending = q

/-- What each opcode of a primitive makes the bridge do: none is taken for another (00_scope R9). -/
theorem Reference.onTwoWire_opcodes (c : Config) (r : Reference) :
    r.onTwoWire c c.opcStart = (r.onStart, [0x01]) ∧
    r.onTwoWire c c.opcStop = ({ r with st := .idle, inFlight := false, rows := [] }, [0x01]) ∧
    r.onTwoWire c c.opcWrite1 = ({ r with expectPayload := true }, [0x01]) ∧
    r.onTwoWire c c.opcRead = r.onRead ∧
    r.onTwoWire c c.opcAck = (r, [0x01]) ∧
    r.onTwoWire c c.opcNack = (r.onNack, [0x01]) := by
  have differ := differ_of_nodup c.valid.1
  simp only [Parameters.twoWireOpcodes, List.pairwise_cons, List.forall_mem_cons] at differ
  simp [Reference.onTwoWire, differ]

section
variable (c : Config) {r : Reference} {st : DeviceState} {a : Nat} {m : List Host.Cell}
  {q : List Byte}

/-- An opcode's reply joins those that wait. -/
theorem Reference.Stands.observe_opcode (h : r.Stands st a m q) (b : Byte) :
    r.observe c (.tx b) =
      { (r.onTwoWire c b).1 with pending := q ++ (r.onTwoWire c b).2 } := by
  simp [Reference.observe, Reference.onTx, h.mode, h.opcode, h.pending]

/-- START from anywhere: the device waits for the control byte. -/
theorem Reference.Stands.start (h : r.Stands st a m q) :
    (r.observe c (.tx c.opcStart)).Stands .control a m (q ++ [0x01]) := by
  obtain ⟨start, -⟩ := r.onTwoWire_opcodes c
  rw [h.observe_opcode, start]
  exact ⟨h.mode, h.opcode, rfl, by simp [Reference.onStart, h.answers], h.cur, h.mem, rfl⟩

/-- STOP from anywhere: the device is idle. -/
theorem Reference.Stands.stop (h : r.Stands st a m q) :
    (r.observe c (.tx c.opcStop)).Stands .idle a m (q ++ [0x01]) := by
  obtain ⟨-, stop, -⟩ := r.onTwoWire_opcodes c
  rw [h.observe_opcode, stop]
  exact ⟨h.mode, h.opcode, h.answers, rfl, h.cur, h.mem, rfl⟩

/-- A drain takes every reply. -/
theorem Reference.Stands.drain (h : r.Stands st a m q) (bs : List Byte) :
    (r.observe c (.drain bs)).Stands st a m [] :=
  ⟨h.mode, h.opcode, h.answers, h.st, h.cur, h.mem, rfl⟩

/-- A payload byte the device takes is answered `00`. -/
theorem Reference.observe_payload {r' : Reference} {b : Byte} (mode : r.mode = .twoWire)
    (payload : r.expectPayload = true)
    (taken : Reference.deviceWrite c b { r with expectPayload := false } = (r', true)) :
    r.observe c (.tx b) = { r' with pending := r.pending ++ [0x00] } := by
  have answered : r.onTx c b = (r', [0x00]) := by
    rw [Reference.onTx, mode]
    simp only [payload, Reference.onPayload, taken, if_true]
  rw [Reference.observe, answered]

/-- WRITE of a byte the device takes: the bridge replies to the opcode and then to the payload. -/
theorem Reference.Stands.replay_write {r' : Reference} {b : Byte} (h : r.Stands st a m q)
    (taken : Reference.deviceWrite c b { r with pending := q ++ [0x01] } = (r', true)) :
    r.replay c [.tx c.opcWrite1, .tx b] = { r' with pending := q ++ [0x01, 0x00] } := by
  obtain ⟨-, -, write, -⟩ := r.onTwoWire_opcodes c
  have expecting : r.observe c (.tx c.opcWrite1) =
      { r with expectPayload := true, pending := q ++ [0x01] } := by
    rw [h.observe_opcode, write]
  have taken : Reference.deviceWrite c b
      { r with expectPayload := false, pending := q ++ [0x01] } = (r', true) := by
    simpa only [h.opcode] using taken
  rw [Reference.replay_cons, expecting, Reference.replay_cons,
    Reference.observe_payload c (r := { r with expectPayload := true, pending := q ++ [0x01] })
      h.mode rfl taken]
  simp

/-! #### What the device does with a payload byte, by where it stands -/

theorem Reference.deviceWrite_ctrlW (h : r.st = .control) :
    Reference.deviceWrite c c.ctrlW r = ({ r with st := .addressHigh }, true) := by
  simp [Reference.deviceWrite, h]

theorem Reference.deviceWrite_ctrlR (h : r.st = .control) :
    Reference.deviceWrite c c.ctrlR r = ({ r with st := .reading }, true) := by
  simp [Reference.deviceWrite, h, ctrlR_ne_ctrlW]

theorem Reference.deviceWrite_addressHigh {b : Byte} (h : r.st = .addressHigh) :
    Reference.deviceWrite c b r = ({ r.touch b with ah := b, st := .addressLow }, true) := by
  simp [Reference.deviceWrite, h]

theorem Reference.deviceWrite_addressLow {b : Byte} (h : r.st = .addressLow) :
    Reference.deviceWrite c b r = ({ r with cur := lin r.ah b, st := .writing }, true) := by
  simp [Reference.deviceWrite, h]

theorem Reference.deviceWrite_writing {b : Byte} (h : r.st = .writing) :
    Reference.deviceWrite c b r = ({ r.touch (highByte r.cur) with
      mem := Memory.write r.mem r.cur b, cur := nextInRow r.cur }, true) := by
  simp [Reference.deviceWrite, h]

/-- WRITE(CTRL_W) after START: the device waits for an address. -/
theorem Reference.Stands.writeCtrlW (h : r.Stands .control a m q) :
    (r.replay c [.tx c.opcWrite1, .tx c.ctrlW]).Stands .addressHigh a m (q ++ [0x01, 0x00]) := by
  rw [h.replay_write c (Reference.deviceWrite_ctrlW c h.st)]
  exact ⟨h.mode, h.opcode, h.answers, rfl, h.cur, h.mem, rfl⟩

/-- WRITE(CTRL_R) after START: the device reads from its cursor on. -/
theorem Reference.Stands.writeCtrlR (h : r.Stands .control a m q) :
    (r.replay c [.tx c.opcWrite1, .tx c.ctrlR]).Stands .reading a m (q ++ [0x01, 0x00]) := by
  rw [h.replay_write c (Reference.deviceWrite_ctrlR c h.st)]
  exact ⟨h.mode, h.opcode, h.answers, rfl, h.cur, h.mem, rfl⟩

/-- The high address byte is kept. -/
theorem Reference.Stands.writeHigh (h : r.Stands .addressHigh a m q) (hi : Byte) :
    (r.replay c [.tx c.opcWrite1, .tx hi]).Stands .addressLow a m (q ++ [0x01, 0x00]) ∧
      (r.replay c [.tx c.opcWrite1, .tx hi]).ah = hi := by
  rw [h.replay_write c (Reference.deviceWrite_addressHigh c h.st)]
  refine ⟨⟨?_, ?_, ?_, rfl, ?_, ?_, rfl⟩, rfl⟩ <;>
    simp [h.mode, h.opcode, h.answers, h.cur, h.mem]

/-- With the low address byte the cursor goes to the address of the two. -/
theorem Reference.Stands.writeLow (h : r.Stands .addressLow a m q) (lo : Byte) :
    (r.replay c [.tx c.opcWrite1, .tx lo]).Stands .writing (lin r.ah lo) m
      (q ++ [0x01, 0x00]) := by
  rw [h.replay_write c (Reference.deviceWrite_addressLow c h.st)]
  exact ⟨h.mode, h.opcode, h.answers, rfl, rfl, h.mem, rfl⟩

/-- A data byte is stored at the cursor, which goes on inside its row. -/
theorem Reference.Stands.writeData (h : r.Stands .writing a m q) (b : Byte) :
    (r.replay c [.tx c.opcWrite1, .tx b]).Stands .writing (nextInRow a) (Memory.write m a b)
      (q ++ [0x01, 0x00]) := by
  rw [h.replay_write c (Reference.deviceWrite_writing c h.st)]
  refine ⟨?_, ?_, ?_, ?_, ?_, ?_, rfl⟩ <;>
    simp [h.mode, h.opcode, h.answers, h.st, h.cur, h.mem]

/-! #### What the bridge answers while the device reads -/

/-- A read: the byte at the cursor, which goes on through the device. -/
theorem Reference.Stands.read (h : r.Stands .reading a m q) :
    (r.observe c (.tx c.opcRead)).Stands .reading ((a + 1) % addressSpace) m
      (q ++ [Memory.read m a]) := by
  obtain ⟨-, -, -, read, -⟩ := r.onTwoWire_opcodes c
  rw [h.observe_opcode, read, Reference.onRead, h.st]
  exact ⟨h.mode, h.opcode, h.answers, rfl, by rw [h.cur], h.mem, by rw [h.mem, h.cur]⟩

/-- The handshake after it that asks for more. -/
theorem Reference.Stands.ack (h : r.Stands st a m q) :
    (r.observe c (.tx c.opcAck)).Stands st a m (q ++ [0x01]) := by
  obtain ⟨-, -, -, -, ack, -⟩ := r.onTwoWire_opcodes c
  rw [h.observe_opcode, ack]
  exact ⟨h.mode, h.opcode, h.answers, h.st, h.cur, h.mem, rfl⟩

/-- The handshake that ends the read. -/
theorem Reference.Stands.nack (h : r.Stands .reading a m q) :
    (r.observe c (.tx c.opcNack)).Stands .readDone a m (q ++ [0x01]) := by
  obtain ⟨-, -, -, -, -, nack⟩ := r.onTwoWire_opcodes c
  rw [h.observe_opcode, nack, Reference.onNack, h.st]
  exact ⟨h.mode, h.opcode, h.answers, rfl, h.cur, h.mem, rfl⟩

/-! #### The templates (42_transactions R154 to R156) -/

/-- `PTRSET` from anywhere: the device takes data bytes from the address on. -/
theorem Reference.Stands.ptrset (h : r.Stands st a m q) (hi lo : Byte) :
    ∃ q', (r.replay c ((ptrsetBytes c hi lo).map .tx)).Stands .writing (lin hi lo) m q' := by
  obtain ⟨high, kept⟩ := ((h.start c).writeCtrlW c).writeHigh c hi
  have low := high.writeLow c lo
  rw [kept] at low
  exact ⟨_, low⟩

/-- Data bytes that stay in a row are stored from the cursor on; where it stands before no byte, and
after the last, does not matter. -/
theorem Reference.Stands.data {d : List Byte} {a' : Nat} (h : r.Stands .writing a' m q)
    (cursor : d ≠ [] → a' = a) (inRow : a % 256 + d.length ≤ 256) :
    ∃ a' q', (r.replay c ((dataBytes c d).map .tx)).Stands .writing a'
      (Memory.writeFrom m a d) q' := by
  induction d generalizing r a a' m q with
  | nil => exact ⟨a', q, h⟩
  | cons b d ih =>
    obtain rfl := cursor (List.cons_ne_nil b d)
    rw [List.length_cons] at inRow
    refine ih (h.writeData c b) (fun left => nextInRow_eq_succ ?_) (by omega)
    have positive := List.length_pos_iff.2 left
    omega

/-- A page from anywhere: its bytes are stored from its address on. -/
theorem Reference.Stands.page {d : List Byte} {a' : Nat} (h : r.Stands st a' m q)
    (inSpace : a < 65536) (inRow : a % 256 + d.length ≤ 256) (drained : List Byte) :
    ∃ a' q', (r.replay c (pageEvents c a d drained)).Stands .idle a'
      (Memory.writeFrom m a d) q' := by
  obtain ⟨_, pointed⟩ := h.ptrset c (highByte a) (lowByte a)
  rw [lin_highByte_lowByte inSpace] at pointed
  obtain ⟨a', q', written⟩ := (pointed.drain c drained).data c (fun _ => rfl) inRow
  refine ⟨a', q' ++ [0x01], ?_⟩
  simp only [pageEvents, Reference.replay_append]
  exact written.stop c

/-- READ_ACK again and again, short of the end of the device. -/
theorem Reference.Stands.readAcks {k : Nat} (h : r.Stands .reading a m q) (inside : a + k < 65536) :
    (r.replay c ((List.replicate k [c.opcRead, c.opcAck]).flatten.map .tx)).Stands .reading
      (a + k) m (q ++ readReplies (Memory.readFrom m a k)) := by
  induction k generalizing r a q with
  | zero => simpa [Memory.readFrom, readReplies] using h
  | succ k ih =>
    have next : (a + 1) % addressSpace = a + 1 := Nat.mod_eq_of_lt (show a + 1 < 65536 by omega)
    have first := (h.read c).ack c
    rw [next] at first
    have rest := ih first (by omega)
    have replies : q ++ [Memory.read m a] ++ [0x01] ++ readReplies (Memory.readFrom m (a + 1) k) =
        q ++ readReplies (Memory.readFrom m a (k + 1)) := by
      simp [Memory.readFrom, readReplies, List.range'_succ]
    rw [replies, Nat.add_assoc, Nat.add_comm 1] at rest
    exact rest

/-- `READSEQ` after a `PTRSET` and a drain: three replies, the bytes from the cursor on with the
replies to their handshakes, and the reply to STOP. -/
theorem Reference.Stands.readseq {n : Nat} (h : r.Stands .writing a m []) (positive : 1 ≤ n)
    (inSpace : a + n ≤ 65536) :
    (r.replay c ((readseqBytes c n).map .tx)).pending =
      [0x01, 0x01, 0x00] ++ readReplies (Memory.readFrom m a n) ++ [0x01] := by
  obtain ⟨k, rfl⟩ := Nat.exists_eq_add_of_le' positive
  have acks := ((h.start c).writeCtrlR c).readAcks c (k := k) (by omega)
  have ended := (((acks.read c).nack c).stop c).pending
  simp only [readseqBytes, List.map_append, Reference.replay_append, Nat.add_sub_cancel]
  refine ended.trans ?_
  simp [Memory.readFrom_succ, readReplies]

end

end Sys2Proof.Machine
end

section
/-! ### A buffer written and read back (45_verifier R213, log entries 4 and 14) -/

namespace Sys2Proof.Machine

/-- The reference environment answers, its device is listening and holds the memory `m`. -/
def State.DeviceHolds (s : State) (m : List Host.Cell) : Prop :=
  s.deviceListening ∧ s.deviceMemory = m

/-- The device behind a state by its place in a transaction. -/
theorem State.deviceHolds_iff {s : State} {m : List Host.Cell} :
    s.DeviceHolds m ↔
      ∃ r st a q, s.env = .reference r ∧ (r.replay s.cfg s.ev).Stands st a m q := by
  unfold State.DeviceHolds State.deviceListening State.deviceMemory
  constructor
  · rintro ⟨listening, rfl⟩
    cases env : s.env with
    | free _ => simp [env] at listening
    | scripted _ => simp [env] at listening
    | reference r =>
      simp only [env] at listening
      obtain ⟨mode, opcode, answers⟩ := listening
      exact ⟨r, _, _, _, rfl, mode, opcode, answers, rfl, rfl, rfl, rfl⟩
  · rintro ⟨r, st, a, q, env, stands⟩
    simp only [env]
    exact ⟨⟨stands.mode, stands.opcode, stands.answers⟩, stands.mem⟩

/-- A page written in its row is stored. -/
theorem State.DeviceHolds.page {a : Nat} {d : List Byte} {m : List Host.Cell} {s : State}
    (h : s.DeviceHolds m) (inSpace : a < 65536) (inRow : a % 256 + d.length ≤ 256) :
    (s.performAll (pagewrActions s.cfg (highByte a) (lowByte a) d)).DeviceHolds
      (Memory.writeFrom m a d) := by
  obtain ⟨r, _, _, _, env, stands⟩ := State.deviceHolds_iff.1 h
  obtain ⟨a', q', written⟩ := stands.page s.cfg inSpace inRow
    (s.rxq ++ s.env.answer s.cfg (s.ev ++ (ptrsetBytes s.cfg (highByte a) (lowByte a)).map .tx))
  rw [← Reference.replay_append] at written
  rw [State.performAll_page_eq]
  exact State.deviceHolds_iff.2 ⟨r, .idle, a', q', env, written⟩

/-- The pages of a buffer that fits store the buffer. -/
theorem State.DeviceHolds.pages {a : Nat} {rest : List Byte} {pages : List (Nat × List Byte)}
    {m : List Host.Cell} {s : State} (h : s.DeviceHolds m) (p : PagesFrom a rest pages)
    (fits : a + rest.length ≤ 65536) :
    (s.performAll (pagesActions s.cfg pages)).DeviceHolds (Memory.writeFrom m a rest) := by
  induction p generalizing m s with
  | done => exact h
  | spaceEnded rest =>
    obtain rfl : rest = [] := List.length_eq_zero_iff.1 (by simpa using fits)
    exact h
  | @page a n rest pages left inSpace length _ ih =>
    obtain ⟨-, -, short, inRow⟩ := chunkLength_bounds left a
    rw [← length] at short inRow
    have size : (rest.take n).length = n := List.length_take_of_le short
    have stored := Memory.writeFrom_append m a (rest.take n) (rest.drop n)
    rw [List.take_append_drop, size] at stored
    have first := h.page inSpace (d := rest.take n) (by omega)
    have others := ih first (by rw [List.length_drop]; omega)
    rw [(s.performAll_sameFrame _).cfg] at others
    rw [State.performAll_pages_cons, stored]
    exact others

/-- What the collect of `readBytes` finds: the replies to its read transaction and nothing else. -/
theorem State.DeviceHolds.readseq_incoming {hi lo : Byte} {n : Nat} {m : List Host.Cell} {s : State}
    (h : s.DeviceHolds m) (positive : 1 ≤ n) (inSpace : lin hi lo + n ≤ 65536) :
    ((s.ptrset hi lo).drain.readseq n).incoming =
      [0x01, 0x01, 0x00] ++ readReplies (Memory.readFrom m (lin hi lo) n) ++ [0x01] := by
  obtain ⟨r, _, _, _, env, stands⟩ := State.deviceHolds_iff.1 h
  obtain ⟨_, pointed⟩ := stands.ptrset s.cfg hi lo
  rw [State.readseq_drain_ptrset_eq]
  simp only [State.incoming, State.arriving, List.nil_append, env, Env.answer,
    Reference.replay_append, Reference.replay_cons, Reference.replay_nil]
  exact (pointed.drain s.cfg _).readseq s.cfg positive inSpace

/-- `readBytes` inside the device, with `READ_LEAD = 3`, returns what the device holds. -/
theorem State.DeviceHolds.callReadBytes_returns {hi lo : Byte} {n : Nat} {m : List Host.Cell}
    {s : State} (h : s.DeviceHolds m) (hs : s.session = .ready) (hd : s.desync = false)
    (lead : s.cfg.readLead = 3) (positive : 1 ≤ n) (inSpace : lin hi lo + n ≤ 65536) :
    ∃ u, callReadBytes hi lo n s = .next u ∧
      u.replies = s.replies ++ [.buffer (Memory.readFrom m (lin hi lo) n)] ∧ u.desync = false := by
  have outcome := State.deliver_collect_cases (fun bs => .buffer (readBuffer 3 bs)) (3 + 2 * n)
    ((s.ptrset hi lo).drain.readseq n)
  have size : ([0x01, 0x01, 0x00] ++ readReplies (Memory.readFrom m (lin hi lo) n)).length =
      3 + 2 * n := by
    rw [List.length_append, length_readReplies_readFrom]
    rfl
  rw [h.readseq_incoming positive inSpace, List.take_left' size] at outcome
  obtain ⟨-, whole⟩ := outcome.resolve_right fun ⟨short, _⟩ => by
    rw [List.length_append, size] at short
    omega
  rw [callReadBytes_ready hi lo hs hd positive, lead, whole, State.readseq_drain_ptrset_eq]
  refine ⟨_, rfl, ?_, hd⟩
  show s.replies ++ [.buffer (deinterleave (readReplies _))] = _
  rw [deinterleave_readReplies]

/-- Settles O58: the pages of the buffer store it in the device, and `readBytes` returns what the
device holds from the same address on. -/
theorem writtenBufferReadsBack : Obligations.WrittenBufferReadsBack := by
  intro s data hi lo hs hd lead listening wf nonempty fits
  obtain ⟨pages, chunks, written⟩ :=
    callWritePages_ready (s := s) (hi := hi) (lo := lo) (data := data) hs hd (by omega)
  rw [written_of_fits _ (by omega)] at written
  have frame := s.performAll_sameFrame (pagesActions s.cfg pages)
  have stored : ((s.performAll (pagesActions s.cfg pages)).answer
      (.written data.length [])).DeviceHolds
        (Memory.writeFrom s.deviceMemory (lin hi lo) data) :=
    State.DeviceHolds.pages ⟨listening, rfl⟩ chunks fits
  obtain ⟨u, read, replies, desync⟩ := stored.callReadBytes_returns (frame.session.trans hs)
    (frame.desync.trans hd) ((congrArg (·.readLead) frame.cfg).trans lead) nonempty fits
  refine ⟨_, u, written, read, ?_, desync⟩
  rw [replies, State.answer_replies, frame.replies,
    Memory.readFrom_writeFrom (State.deviceMemory_wf wf) fits, List.append_assoc]
  rfl

end Sys2Proof.Machine
end

section
/-! ### When an operation with no opcode has a step (60_exceptions R230, R232, log entry 9) -/

namespace Sys2Proof.Machine

/-- The model's operand check of `PAGEWR` is the one of its well-formedness (R31). -/
theorem pageSized_eq_pageLength (n : Nat) : pageSized n = pageLength n := by
  simp [pageSized, pageLength]

/-- Every operation with no opcode but the verifier and the abandonment is gated by the session and by
`DESYNC`, in this order. -/
theorem runCall_gated {c : Call} (notAbandon : c ≠ .abandon) (notCompare : ∀ e a, c ≠ .compare e a)
    (s : State) : ∃ k, runCall c s = s.whenReady k := by
  cases c with
  | compare e a => exact absurd rfl (notCompare e a)
  | abandon => exact absurd rfl notAbandon
  | drain | collect | settle | ptrset | pagewr | readseq | writePages | readBytes => exact ⟨_, rfl⟩

/-- `PAGEWR` of what is no page, in `Ready` and not desynchronized, is refused (R155). -/
theorem callPagewr_refused {s : State} {d : List Byte} (hi lo : Byte) (hs : s.session = .ready)
    (hd : s.desync = false) (unsized : pageSized d.length = false) :
    callPagewr hi lo d s = .refused .illFormedOperands := by
  simp [callPagewr, State.pageWrite, hs, hd, unsized]

/-- Past the gate, ill-formed operands are refused. -/
theorem runCall_illFormed {c : Call} {s : State} (hs : s.session = .ready) (hd : s.desync = false)
    (ill : c.WellFormed = false) : runCall c s = .refused .illFormedOperands := by
  cases c with
  | collect n | readseq n =>
    refine (State.whenReady_ready hs hd _).trans ?_
    rw [show decide (1 ≤ n) = false from ill]
    rfl
  | pagewr hi lo d => exact callPagewr_refused hi lo hs hd ((pageSized_eq_pageLength _).trans ill)
  | drain | settle | ptrset | writePages | readBytes | compare | abandon => cases ill

/-- `PAGEWR` of a page, in `Ready` and not desynchronized, has a step, committed or reported
(R155). -/
theorem callPagewr_next {s : State} {d : List Byte} (hi lo : Byte) (hs : s.session = .ready)
    (hd : s.desync = false) (sized : pageSized d.length = true) :
    ∃ t, callPagewr hi lo d s = .next t := by
  cases fits : fitsRow lo.toNat d.length with
  | true => exact ⟨_, callPagewr_committed hs hd sized fits⟩
  | false => exact ⟨_, callPagewr_rejected hs hd sized fits⟩

/-- `writePages`, in `Ready` and not desynchronized, has a step for every buffer: no chunk is refused
(R171, R172). -/
theorem callWritePages_next {s : State} (data : List Byte) (hi lo : Byte)
    (hs : s.session = .ready) (hd : s.desync = false) :
    ∃ t, callWritePages data hi lo s = .next t := by
  rcases le_or_gt data.length 65536 with small | oversize
  · obtain ⟨pages, -, written⟩ := callWritePages_ready hs hd small
    exact ⟨_, written⟩
  · exact ⟨_, callWritePages_oversize hi lo hs hd oversize⟩

/-- `readBytes`, in `Ready` and not desynchronized, has a step for every length (R190, R193). -/
theorem callReadBytes_next {s : State} (hi lo : Byte) (n : Nat) (hs : s.session = .ready)
    (hd : s.desync = false) : ∃ t, callReadBytes hi lo n s = .next t := by
  rw [callReadBytes, State.whenReady_ready hs hd]
  split <;> exact ⟨_, rfl⟩

/-- Past the gate, well-formed operands have a step. -/
theorem runCall_wellFormed {c : Call} {s : State} (notAbandon : c ≠ .abandon)
    (hs : s.session = .ready) (hd : s.desync = false) (well : c.WellFormed = true) :
    ∃ t, runCall c s = .next t := by
  cases c with
  | drain | settle | ptrset => exact ⟨_, State.whenReady_ready hs hd _⟩
  | collect n => exact ⟨_, callCollect_ready hs hd (of_decide_eq_true well)⟩
  | readseq n =>
    obtain ⟨-, read⟩ := readSequenceEndsWithOneNack s n hs hd
    exact ⟨_, (read (of_decide_eq_true well)).2⟩
  | pagewr hi lo d => exact callPagewr_next hi lo hs hd ((pageSized_eq_pageLength _).trans well)
  | writePages data hi lo => exact callWritePages_next data hi lo hs hd
  | readBytes hi lo n => exact callReadBytes_next hi lo n hs hd
  | compare e a => exact ⟨_, rfl⟩
  | abandon => exact absurd rfl notAbandon

/-- Settles O28: the gate, and past it the operands. -/
theorem callRefusedUnlessReady : Obligations.CallRefusedUnlessReady := by
  intro s c notAbandon notCompare
  obtain ⟨k, gated⟩ := runCall_gated notAbandon notCompare s
  exact ⟨fun hs => gated.trans (State.whenReady_elsewhere hs k),
    fun hs hd => gated.trans (State.whenReady_desynchronized hs hd k),
    fun hs hd ill => runCall_illFormed hs hd ill,
    fun hs hd well => runCall_wellFormed notAbandon hs hd well⟩

/-- Settles O34. -/
theorem oversizeBufferAbortsBeforeTraffic : Obligations.OversizeBufferAbortsBeforeTraffic :=
  fun _ _ hi lo hs hd oversize => callWritePages_oversize hi lo hs hd oversize

end Sys2Proof.Machine
end

section
/-! ### Whole operations on the transmit stream (30_encoding R82, 60_exceptions R230, R233) -/

namespace Sys2Proof.Machine

/-- From `s` to `t` the transmit stream gained the encodings of operations that the session state of
`s` lets on the channel. -/
def State.EmitsWhole (s t : State) : Prop :=
  ∃ is : List Instr, t.tx = s.tx ++ encodeAll s.cfg is ∧ ∀ i ∈ is, s.session.mayEmit i = true

/-- With nothing transmitted there is no operation. -/
theorem State.EmitsWhole.silent {s t : State} (same : t.tx = s.tx) : s.EmitsWhole t :=
  ⟨[], by simp [same, encodeAll], by simp⟩

theorem State.EmitsWhole.single {s t : State} (i : Instr) (sent : t.tx = s.tx ++ encode s.cfg i)
    (allowed : s.session.mayEmit i = true) : s.EmitsWhole t :=
  ⟨[i], by simp [sent, encodeAll], by simpa using allowed⟩

/-- `Ready` is the session state of the primitives. -/
theorem Session.mayEmit_toInstr (p : Prim) : Session.ready.mayEmit p.toInstr = true := by
  cases p <;> rfl

/-- The operations that a template's element transmits: a primitive, or none. -/
def Action.instrs : Action → List Instr
  | .prim p => [p.toInstr]
  | .drain => []
  | .settle => []

theorem actionBytes_eq (c : Config) (a : Action) : actionBytes c a = encodeAll c a.instrs := by
  cases a <;> simp [actionBytes, Action.instrs, encodeAll]

theorem Action.mayEmit_instrs {a : Action} {i : Instr} (h : i ∈ a.instrs) :
    Session.ready.mayEmit i = true := by
  cases a with
  | prim p =>
    obtain rfl := List.mem_singleton.1 h
    exact Session.mayEmit_toInstr p
  | drain | settle => cases h

/-- A template transmits the encodings of its primitives (R93). -/
theorem State.performAll_emitsWhole (as : List Action) {s : State} (hs : s.session = .ready) :
    s.EmitsWhole (s.performAll as) := by
  refine ⟨as.flatMap Action.instrs, ?_, fun i hi => ?_⟩
  · simp [State.performAll_tx, funext (actionBytes_eq s.cfg), encodeAll, List.flatMap_assoc]
  · obtain ⟨a, -, ha⟩ := List.mem_flatMap.1 hi
    rw [hs]
    exact Action.mayEmit_instrs ha

/-- Mode entry transmits its one operation, as often as it tries. -/
theorem State.enterWithin_emitsWhole (k : Nat) {s : State} (hs : s.session = .idle) :
    s.EmitsWhole (s.enterWithin k) := by
  obtain ⟨n, sent⟩ := s.enterWithin_tx k
  refine ⟨List.replicate n .enterBridgeMode, ?_, fun i hi => ?_⟩
  · simpa [encodeAll, List.flatMap_replicate, encode] using sent
  · rw [hs, List.eq_of_mem_replicate hi]
    rfl

/-- An operation transmits whole operations allowed in the session state it begins in. -/
theorem Effect.emitsWhole {s t : State} (e : Effect s t) : s.EmitsWhole t := by
  cases e with
  | primitive p hs _ => exact s.performAll_emitsWhole [.prim p] hs
  | entry hs => exact State.enterWithin_emitsWhole _ hs
  | busMode hs => exact .single .selectBusMode (by simp [State.tx_eq, encode]) (by rw [hs]; rfl)
  | powerOn hs => exact .single .configurePowerOn (by simp [State.tx_eq, encode]) (by rw [hs]; rfl)
  | powerOff hs =>
    exact .single .configurePowerOff (by simp [State.tx_eq, encode]) (by rw [hs]; rfl)
  | abandoned _ => exact .silent rfl
  | compared v => exact .silent rfl
  | expansion as rs hs _ => exact State.performAll_emitsWhole as hs
  | collection as n f hs _ _ =>
    obtain ⟨is, sent, allowed⟩ := State.performAll_emitsWhole as hs
    exact ⟨is, (State.deliver_collect_tx f n _).trans sent, allowed⟩

/-- Settles O48: taking the command off the list and an arrival transmit nothing. -/
theorem streamAlwaysEndsOnAWholeOperation : Obligations.StreamAlwaysEndsOnAWholeOperation := by
  intro s t hst
  rcases step_effect hst with ⟨e, -⟩ | rfl
  · exact e.emitsWhole
  · exact State.EmitsWhole.silent rfl

end Sys2Proof.Machine
end

section
/-! ### After a timeout (60_exceptions R224, R230, R234) -/

namespace Sys2Proof.Machine

/-- Of all operations only power off and the verifier have a step in a desynchronized session. -/
theorem Effect.of_desynchronized {s t : State} (e : Effect s t) (hs : s.session = .ready)
    (hd : s.desync = true) :
    t = (s.emit s.cfg.opcPwrOff).goTo .closed ∨ ∃ v, t = s.answer (.verdict v) := by
  cases e with
  | powerOff _ => exact .inl rfl
  | compared v => exact .inr ⟨v, rfl⟩
  | entry h => simp [hs] at h
  | busMode h => simp [hs] at h
  | powerOn h => simp [hs] at h
  | abandoned h => simp [hs] at h
  | primitive _ _ d => simp [hd] at d
  | expansion _ _ _ d => simp [hd] at d
  | collection _ _ _ _ d _ => simp [hd] at d

/-- Settles O51: a step after a timeout is power off, returns a verdict, or is an arrival. -/
theorem desynchronizedSessionCanOnlyClose : Obligations.DesynchronizedSessionCanOnlyClose := by
  intro s t hs hd hst
  rcases step_effect hst with ⟨e, -⟩ | rfl
  · rcases e.of_desynchronized hs hd with rfl | ⟨v, rfl⟩
    · exact .inl rfl
    · exact .inr ⟨[.verdict v], [], by simp [State.answer, State.pop]⟩
  · exact .inr ⟨[], s.arrivingNext, by simp [State.arrive, State.pop]⟩

end Sys2Proof.Machine
end

section
/-! ### Bring-up and power off, command by command (40_session R111 to R114, 70_reset R263) -/

namespace Sys2Proof.Machine

/-- The step of mode entry at the head of the list, where the first read finds the signature and no
more. -/
theorem step_enterBridgeMode {s : State} {cs : List Command} (hs : s.session = .idle)
    (queue : s.rxq = [])
    (signature : s.env.answer s.cfg (s.ev ++ [.tx s.cfg.opcBridgeReset]) = s.cfg.sig)
    (h : s.commands = .operation .enterBridgeMode :: cs) :
    step s = .next { s with
      session := .bridgeEntered
      ev := s.ev ++ [.tx s.cfg.opcBridgeReset, .collect s.cfg.sig true]
      rxq := []
      commands := cs
      replies := s.replies ++ [.entered] } := by
  rw [step_operation h]
  exact signatureAtHeadEntersBridgeMode { s with commands := cs } [] hs (by simp [queue, signature])

/-- The step of the bus-mode select at the head of the list, where it has one. -/
theorem step_selectBusMode {s : State} {cs : List Command} (hs : s.session = .bridgeEntered)
    (h : s.commands = .operation .selectBusMode :: cs) :
    step s = .next { s with
      session := .busModeSelected
      ev := s.ev ++ [.tx s.cfg.opcSelTwoWire,
        .drain (s.rxq ++ s.env.answer s.cfg (s.ev ++ [.tx s.cfg.opcSelTwoWire]))]
      rxq := []
      commands := cs } := by
  obtain ⟨drained, -⟩ := selectBusModeDrainsBanner { s with commands := cs }
  rw [step_operation h, drained hs]

/-- The step of power on at the head of the list, where it has one. -/
theorem step_configurePowerOn {s : State} {cs : List Command} (hs : s.session = .busModeSelected)
    (h : s.commands = .operation .configurePowerOn :: cs) :
    step s = .next { s with
      session := .ready
      ev := s.ev ++ [.tx s.cfg.opcPwrOn]
      commands := cs } := by
  obtain ⟨powered, -⟩ := configurePowerSendsOneOpcode { s with commands := cs }
  rw [step_operation h, powered hs]

/-- The step of power off at the head of the list, where it has one. -/
theorem step_configurePowerOff {s : State} {cs : List Command} (hs : s.session = .ready)
    (h : s.commands = .operation .configurePowerOff :: cs) :
    step s = .next { s with
      session := .closed
      ev := s.ev ++ [.tx s.cfg.opcPwrOff]
      commands := cs } := by
  obtain ⟨-, closed, -⟩ := configurePowerSendsOneOpcode { s with commands := cs }
  rw [step_operation h, closed hs]

/-- Settles O24: one step per bring-up operation, each in the session state the one before it
reached. -/
theorem bringUpReachesReady : Obligations.BringUpReachesReady := by
  intro s rest hs queue signature
  have entered := step_enterBridgeMode (s := { s with commands := [.operation .enterBridgeMode,
    .operation .selectBusMode, .operation .configurePowerOn] ++ rest }) hs queue signature rfl
  refine ⟨_, (run_succ_of_next entered).trans <|
    (run_succ_of_next (step_selectBusMode rfl rfl)).trans <|
    run_succ_of_next (step_configurePowerOn rfl rfl), rfl, rfl, ?sent, rfl, rfl, rfl, rfl, rfl⟩
  case sent => simp [State.tx_eq]

end Sys2Proof.Machine
end

section
/-! ### Every STOP of a page write is settled (70_reset R273) -/

namespace Sys2Proof.Machine

@[simp] theorem highByte_lin (hi lo : Byte) : highByte (lin hi lo) = hi :=
  highByte_rowAddress hi lo.isLt

@[simp] theorem lowByte_lin (hi lo : Byte) : lowByte (lin hi lo) = lo := by
  apply BitVec.eq_of_toNat_eq
  have low : lo.toNat < 256 := lo.isLt
  simp only [lowByte, lin, BitVec.toNat_ofNat]
  omega

/-- What `t` adds to the history of `s` is a sequence of whole page transactions, each ending in its
STOP and its settle (R155, R273). -/
def State.AddsPages (s t : State) : Prop :=
  ∃ pages : List (Nat × List Byte × List Byte),
    t.ev = s.ev ++ pages.flatMap fun p => pageEvents s.cfg p.1 p.2.1 p.2.2

theorem State.AddsPages.of_same {s t : State} (same : t.ev = s.ev) : s.AddsPages t :=
  ⟨[], by simp [same]⟩

/-- The page writer's expansion is one transaction per page (R177). -/
theorem State.performAll_pages_addsPages (pages : List (Nat × List Byte)) (s : State) :
    s.AddsPages (s.performAll (pagesActions s.cfg pages)) := by
  obtain ⟨drained, -, events, -⟩ := s.performAll_pages_ev pages
  exact ⟨(pages.zip drained).map fun x => (x.1.1, x.1.2, x.2),
    by rw [events, List.flatMap_map]⟩

/-- `PAGEWR` is one page or, rejected, none (R155, R222). -/
theorem callPagewr_addsPages {s t : State} {hi lo : Byte} {d : List Byte}
    (h : callPagewr hi lo d s = .next t) : s.AddsPages t := by
  obtain ⟨-, -, outcome⟩ := State.whenReady_next.1 h
  rcases s.pageWrite_cases hi lo d with ⟨-, p⟩ | ⟨-, -, p⟩ | ⟨-, -, p⟩ <;>
    simp only [p] at outcome <;> cases outcome
  case inr.inl => exact .of_same rfl
  case inr.inr =>
    have page := s.performAll_pages_addsPages [(lin hi lo, d)]
    simpa [pagesActions, State.AddsPages] using page

/-- `writePages` is the pages of its buffer or, turned away, none (R170, R171). -/
theorem callWritePages_addsPages {s t : State} {hi lo : Byte} {d : List Byte}
    (h : callWritePages d hi lo s = .next t) : s.AddsPages t := by
  obtain ⟨hs, hd, -⟩ := State.whenReady_next.1 h
  rcases le_or_gt d.length 65536 with small | oversize
  · obtain ⟨pages, -, written⟩ := callWritePages_ready (hi := hi) (lo := lo) hs hd small
    obtain rfl := Host.Outcome.next.inj (written.symm.trans h)
    exact s.performAll_pages_addsPages pages
  · obtain rfl := Host.Outcome.next.inj
      ((callWritePages_oversize hi lo hs hd oversize).symm.trans h)
    exact .of_same rfl

/-- Settles O53. -/
theorem pageWritesEndSettled : Obligations.PageWritesEndSettled := by
  rintro s t hi lo d (page | writer)
  · exact callPagewr_addsPages page
  · exact callWritePages_addsPages writer

end Sys2Proof.Machine
end

section
/-! ### The session's end, and a new session (70_reset R262, R274, R283) -/

namespace Sys2Proof.Machine

/-- With nothing more handed over, a closed session is final if no transaction is open (R283). -/
theorem State.isFinal_closed {s : State} (hs : s.session = .closed) (done : s.commands = []) :
    s.isFinal = !s.isOpen := by
  simp [State.isFinal, hs, done]

/-- Settles O54: power off moves the session and leaves the monitor where it stands. -/
theorem closingAnOpenTransactionIsNotFinal : Obligations.ClosingAnOpenTransactionIsNotFinal := by
  intro s t hs last run
  obtain rfl := Host.Outcome.next.inj ((step_configurePowerOff hs last).symm.trans run)
  rw [State.isFinal_closed rfl rfl, Bool.not_eq_true']
  rfl

/-- With no transaction open or in flight the end of a session leaves device memory alone. -/
theorem Reference.sessionEnded_mem {r : Reference} (landed : r.inFlight = false) :
    (r.sessionEnded false).mem = r.mem := by
  simp [Reference.sessionEnded, landed]

/-- A session opened again with no transaction open or in flight finds device memory as it was. -/
theorem State.reestablish_deviceMemory {s : State} (rx : List Byte) (notOpen : s.isOpen = false)
    (landed : s.deviceInFlight = false) :
    (s.reestablish rx).deviceMemory = s.deviceMemory := by
  unfold State.deviceInFlight at landed
  cases he : s.env with
  | free earlier => simp [State.reestablish, State.deviceMemory, he, Env.after]
  | scripted answers => simp [State.reestablish, State.deviceMemory, he, Env.after]
  | reference r =>
    rw [he] at landed
    simp [State.reestablish, State.deviceMemory, he, Env.after, notOpen, State.reset,
      Reference.sessionEnded_mem landed]

/-- Settles O55: every field but the environment is set by the re-establishment itself. -/
theorem reestablishedSessionIsNew : Obligations.ReestablishedSessionIsNew := fun _ rx =>
  ⟨rfl, rfl, rfl, rfl, rfl, rfl, rfl, State.reestablish_deviceMemory rx⟩

end Sys2Proof.Machine
end
